-- ==== Sys2Proof/Config.lean ====
section
/-! DEFINITION. The parameters of rule R8, which the model takes as an argument, with the constraints of R8's table; their
values on this hardware; and the two rows R8 calls fixed. The spec leaves no value open for the machine to read: this
file declares no free value. -/

namespace Sys2Proof

/-- `ceil(log2 n)` (R8). -/
def ceilLog2 (n : Nat) : Nat := if n ≤ 1 then 0 else Nat.log2 (n - 1) + 1

/-- The parameters (R8), under the spec's names. `NIL` is Sys2Proof.NIL. -/
structure Params where
  /-- Alphabet size: symbols are `0 .. N_SYM - 1`. -/
  N_SYM : Nat
  /-- Width of a symbol. -/
  SYM_BITS : Nat
  /-- Width of a signed count on the FREQ port. -/
  COUNT_BITS : Nat
  /-- Width of the unsigned weight field of a node. -/
  WEIGHT_BITS : Nat
  /-- Number of node records. -/
  NODE_CAP : Nat
  /-- Width of a node index. -/
  IDX_BITS : Nat
  /-- Longest bit-string RESTORE accepts and SERIALIZE emits. -/
  MAX_CODE_LEN : Nat
  /-- Capacity of the priority queue. -/
  PQ_CAP : Nat
  /-- Capacity of the serializer's stack. -/
  STACK_CAP : Nat
  deriving DecidableEq, Repr

/-- The column "constraint" of R8's table. -/
abbrev Params.ok (P : Params) : Prop :=
  1 ≤ P.N_SYM ∧ P.SYM_BITS = max 1 (ceilLog2 P.N_SYM) ∧ 2 ≤ P.COUNT_BITS ∧
  P.WEIGHT_BITS = P.COUNT_BITS - 1 + P.SYM_BITS ∧ P.NODE_CAP = 2 * P.N_SYM - 1 ∧ P.IDX_BITS = P.SYM_BITS + 1 ∧
  P.NODE_CAP ≤ 2 ^ P.IDX_BITS - 1 ∧ P.MAX_CODE_LEN = P.N_SYM - 1 ∧ P.PQ_CAP = P.N_SYM ∧ P.STACK_CAP = P.N_SYM

/-- The parameters with an alphabet size and a count width, every other one as R8's constraint gives it. -/
def Params.of (nSym countBits : Nat) : Params :=
  { N_SYM := nSym, SYM_BITS := max 1 (ceilLog2 nSym), COUNT_BITS := countBits
    WEIGHT_BITS := countBits - 1 + max 1 (ceilLog2 nSym), NODE_CAP := 2 * nSym - 1
    IDX_BITS := max 1 (ceilLog2 nSym) + 1, MAX_CODE_LEN := nSym - 1, PQ_CAP := nSym, STACK_CAP := nSym }

/-- The column "this hardware" of R8's table. Every type of the model takes these parameters where none are named. -/
abbrev hw : Params :=
  { N_SYM := 256, SYM_BITS := 8, COUNT_BITS := 32, WEIGHT_BITS := 39, NODE_CAP := 511, IDX_BITS := 9
    MAX_CODE_LEN := 255, PQ_CAP := 256, STACK_CAP := 256 }

/-- Width of a character on TIN and TOUT (R8: fixed). -/
abbrev Config.CHAR_BITS : Nat := 8

/-- Number of decoder cursors (R8: fixed; R222). -/
abbrev Config.N_DEC : Nat := 1

end Sys2Proof
end

