-- ==== Sys2Proof/Word.lean ====
section
/-! DEFINITION. The words of the block: symbols, characters, counts, weights and node indices, each a bit vector of the
width rule R8 gives it. -/

namespace Sys2Proof

/-- A symbol, `SYM_BITS` wide (R8). -/
abbrev Sym (P : Params := hw) := BitVec P.SYM_BITS

/-- A character of TIN or TOUT, `CHAR_BITS` wide, which R8 fixes at 8 (R61, R88). -/
abbrev Byte := BitVec 8

/-- A pattern on the FREQ port, `COUNT_BITS` wide, read as two's complement (R60). -/
abbrev Count (P : Params := hw) := BitVec P.COUNT_BITS

/-- A node's weight, `WEIGHT_BITS` wide, unsigned (R29). -/
abbrev Weight (P : Params := hw) := BitVec P.WEIGHT_BITS

/-- A node index, `IDX_BITS` wide (R28). -/
abbrev Idx (P : Params := hw) := BitVec P.IDX_BITS

/-- The index value that means "no node" (R8): `2 ^ IDX_BITS - 1`. -/
def NIL {P : Params} : Idx P := BitVec.ofNat P.IDX_BITS (2 ^ P.IDX_BITS - 1)

/-- The frequency table a host presents (R43): one count for every symbol. -/
abbrev FreqTable (P : Params := hw) := Vector (Count P) P.N_SYM

/-- A frequency table from symbol and count pairs, every symbol not listed having count 0 (R60, R98). -/
def FreqTable.ofPairs {P : Params} (ps : List (Nat × Int)) : FreqTable P :=
  ps.foldl (fun t q => t.setIfInBounds q.1 (BitVec.ofInt P.COUNT_BITS q.2)) (Vector.replicate P.N_SYM 0)

end Sys2Proof
end

