-- ==== Sys2Proof/Syntax.lean ====
section
/-! DEFINITION. The instructions: one constructor for each of the 26 rows of spec/opcode_table.json. -/

namespace Sys2Proof

/-- An instruction of one of the three formats of rule R80. No command word and no decoder bit carries an operand
(R80, R82). The two `OTHER` classes of characters keep the character they stand for (R93). -/
inductive Instr where
  /-- CMD `001` (R81). -/
  | build
  /-- CMD `010` (R81). -/
  | restore
  /-- CMD `011` (R81). -/
  | serialize
  /-- CMD `100` (R81). -/
  | decode
  /-- CMD `000` (R83). -/
  | reserved0
  /-- CMD `101` (R83). -/
  | reserved5
  /-- CMD `110` (R83). -/
  | reserved6
  /-- CMD `111` (R83). -/
  | reserved7
  /-- BIT `0` (R86). -/
  | bitL
  /-- BIT `1` (R86). -/
  | bitR
  /-- The digit 0 on a symbol line (R93). -/
  | symDigit0
  /-- The digit 1 on a symbol line (R93). -/
  | symDigit1
  /-- The digit 2 on a symbol line (R93). -/
  | symDigit2
  /-- The digit 3 on a symbol line (R93). -/
  | symDigit3
  /-- The digit 4 on a symbol line (R93). -/
  | symDigit4
  /-- The digit 5 on a symbol line (R93). -/
  | symDigit5
  /-- The digit 6 on a symbol line (R93). -/
  | symDigit6
  /-- The digit 7 on a symbol line (R93). -/
  | symDigit7
  /-- The digit 8 on a symbol line (R93). -/
  | symDigit8
  /-- The digit 9 on a symbol line (R93). -/
  | symDigit9
  /-- LF on a symbol line (R93). -/
  | symLf
  /-- Any other character on a symbol line (R93). -/
  | symOther (c : Byte)
  /-- `'0'` on a bit-string line (R93). -/
  | bits0
  /-- `'1'` on a bit-string line (R93). -/
  | bits1
  /-- LF on a bit-string line (R93). -/
  | bitsLf
  /-- Any other character on a bit-string line (R93). -/
  | bitsOther (c : Byte)
  deriving DecidableEq, Repr

end Sys2Proof
end

