-- ==== Sys2Proof/WellFormed.lean ====
section
/-! DEFINITION. Which terms of Instr stand for an encoding: the character kept by an `OTHER` class is of that class
(R93). -/

namespace Sys2Proof

/-- The digit codes (R88): `0x30` to `0x39`. -/
def isDigitCode (c : Byte) : Bool := decide (0x30#8 ≤ c) && decide (c ≤ 0x39#8)

/-- The codes a symbol line gives a meaning (R90, R93): the digits and LF. -/
def isSymLineCode (c : Byte) : Bool := isDigitCode c || c == 0x0A#8

/-- The codes a bit-string line gives a meaning (R92, R93): `'0'`, `'1'` and LF. -/
def isBitsLineCode (c : Byte) : Bool := c == 0x30#8 || c == 0x31#8 || c == 0x0A#8

/-- An instruction is well formed when the character of an `OTHER` class is outside the codes its line names (R93);
every other constructor is one encoding. -/
def Instr.wf : Instr → Bool
  | .symOther c => !isSymLineCode c
  | .bitsOther c => !isBitsLineCode c
  | _ => true

end Sys2Proof
end

