-- ==== Sys2Proof/Decode.lean ====
section
/-! DEFINITION. Decoding (R80, R81, R83, R86, R93) and, after it, the encoder written from the same tables. -/

namespace Sys2Proof

/-- Where a word stands (R80, R93): on the CMD port, in the bit source, on a symbol line or on a bit-string line of the
table text. The line kind is the only mode decoding depends on (R93). -/
inductive Format where
  | cmd | bit | symLine | bitsLine
  deriving DecidableEq, Repr

/-- Why a number is no word of a format: it does not fit the format's width (R80). -/
inductive DecodeError where
  /-- A command word has 3 bits. -/
  | widerThanCmd
  /-- A decoder input has 1 bit. -/
  | widerThanBit
  /-- A character has 8 bits. -/
  | widerThanChar
  deriving DecidableEq, Repr

/-- The width of a format (R80). -/
def Format.width : Format → Nat
  | .cmd => 3
  | .bit => 1
  | .symLine => 8
  | .bitsLine => 8

/-- The command set (R81) and the reserved words (R83). -/
def decodeCmd (w : BitVec 3) : Instr :=
  if w = 0b001#3 then .build
  else if w = 0b010#3 then .restore
  else if w = 0b011#3 then .serialize
  else if w = 0b100#3 then .decode
  else if w = 0b000#3 then .reserved0
  else if w = 0b101#3 then .reserved5
  else if w = 0b110#3 then .reserved6
  else .reserved7

/-- The decoder's input bits (R86): 0 is `BIT.L`, 1 is `BIT.R`. -/
def decodeBit (b : Bool) : Instr := if b then .bitR else .bitL

/-- A character on a symbol line (R93, R133). -/
def decodeSymChar (c : Byte) : Instr :=
  if c = 0x30#8 then .symDigit0
  else if c = 0x31#8 then .symDigit1
  else if c = 0x32#8 then .symDigit2
  else if c = 0x33#8 then .symDigit3
  else if c = 0x34#8 then .symDigit4
  else if c = 0x35#8 then .symDigit5
  else if c = 0x36#8 then .symDigit6
  else if c = 0x37#8 then .symDigit7
  else if c = 0x38#8 then .symDigit8
  else if c = 0x39#8 then .symDigit9
  else if c = 0x0A#8 then .symLf
  else .symOther c

/-- A character on a bit-string line (R93, R133). -/
def decodeBitsChar (c : Byte) : Instr :=
  if c = 0x30#8 then .bits0
  else if c = 0x31#8 then .bits1
  else if c = 0x0A#8 then .bitsLf
  else .bitsOther c

/-- The decoder on a number: total, refusing by name what does not fit the format. -/
def decode (f : Format) (w : Nat) : Except DecodeError Instr :=
  match f with
  | .cmd => if w < 8 then .ok (decodeCmd (BitVec.ofNat 3 w)) else .error .widerThanCmd
  | .bit => if w < 2 then .ok (decodeBit (w == 1)) else .error .widerThanBit
  | .symLine => if w < 256 then .ok (decodeSymChar (BitVec.ofNat 8 w)) else .error .widerThanChar
  | .bitsLine => if w < 256 then .ok (decodeBitsChar (BitVec.ofNat 8 w)) else .error .widerThanChar

/-- The format an instruction is encoded in (R81, R86, R93). -/
def Instr.format : Instr → Format
  | .build => .cmd
  | .restore => .cmd
  | .serialize => .cmd
  | .decode => .cmd
  | .reserved0 => .cmd
  | .reserved5 => .cmd
  | .reserved6 => .cmd
  | .reserved7 => .cmd
  | .bitL => .bit
  | .bitR => .bit
  | .symDigit0 => .symLine
  | .symDigit1 => .symLine
  | .symDigit2 => .symLine
  | .symDigit3 => .symLine
  | .symDigit4 => .symLine
  | .symDigit5 => .symLine
  | .symDigit6 => .symLine
  | .symDigit7 => .symLine
  | .symDigit8 => .symLine
  | .symDigit9 => .symLine
  | .symLf => .symLine
  | .symOther _ => .symLine
  | .bits0 => .bitsLine
  | .bits1 => .bitsLine
  | .bitsLf => .bitsLine
  | .bitsOther _ => .bitsLine

/-- The word of an instruction in its format (R81, R83, R86, R93). -/
def encode : Instr → Nat
  | .build => 0b001
  | .restore => 0b010
  | .serialize => 0b011
  | .decode => 0b100
  | .reserved0 => 0b000
  | .reserved5 => 0b101
  | .reserved6 => 0b110
  | .reserved7 => 0b111
  | .bitL => 0
  | .bitR => 1
  | .symDigit0 => 0x30
  | .symDigit1 => 0x31
  | .symDigit2 => 0x32
  | .symDigit3 => 0x33
  | .symDigit4 => 0x34
  | .symDigit5 => 0x35
  | .symDigit6 => 0x36
  | .symDigit7 => 0x37
  | .symDigit8 => 0x38
  | .symDigit9 => 0x39
  | .symLf => 0x0A
  | .symOther c => c.toNat
  | .bits0 => 0x30
  | .bits1 => 0x31
  | .bitsLf => 0x0A
  | .bitsOther c => c.toNat

/-- The format a row of spec/opcode_table.json is read in when only its width in bits and its word are given. A width of
one bit is a decoder input and a width of two or three a command word. A width in whole bytes does not tell the formats
apart: there a word below 8 is read as a command and any other as a character of a symbol line, the line kind a table
starts with (R93). PRESUMED: log entry 12. -/
def tableFormat (nbits w : Nat) : Format :=
  if nbits ≤ 1 then .bit
  else if nbits ≤ 3 then .cmd
  else if w < 8 then .cmd
  else .symLine

/-- The instruction the decoder reads from a word of spec/opcode_table.json. -/
def decodeTableWord (nbits w : Nat) : Option Instr :=
  match decode (tableFormat nbits w) w with
  | .ok i => some i
  | .error _ => none

end Sys2Proof
end

