-- ==== Sys2Proof/Machine/State.lean ====
section
/-! DEFINITION. The state of the Huffman tree builder as plain data (file 10_state.md), the reasons a step can stop, and
the state after reset (R46). The types that depend on the parameters of R8 stand in the namespace `Any`, with the
parameters as an argument; outside it the same names take this hardware's parameters where none are given, so that `State`
is this hardware's state and `State P` the state for parameters `P`. -/

namespace Sys2Proof.Machine

/-- `PHASE` (R24): which step runs next. Its codes (R97) are `Phase.code` of Machine/Flags.lean. -/
inductive Phase where
  /-- No command in progress. -/
  | idle
  /-- BUILD, scanning the frequency table. -/
  | bScan
  /-- BUILD, merging. -/
  | bMerge
  /-- RESTORE, on a symbol line. -/
  | rSym
  /-- RESTORE, on a bit-string line. -/
  | rBits
  /-- SERIALIZE. -/
  | sWalk
  /-- DECODE. -/
  | dRun
  /-- Halted after a fault of the block. -/
  | fault
  deriving DecidableEq, Repr

/-- `CAUSE` (R25, R201): no fault since reset, or the fault raised. Its codes (R201) are `Cause.code` of
Machine/Flags.lean. The values 9 to 15, which R201 says are never produced, have no constructor (U16). -/
inductive Cause where
  | noFault
  | fmtSymbol
  | fmtBitstring
  | fmtConflict
  | fmtIncomplete
  | streamTruncated
  | emptyTree
  | noTree
  | badCmd
  deriving DecidableEq, Repr

namespace Any

/-- A node record (R29), its fields under the spec's names. -/
structure NodeRec (P : Params) where
  SYM : Sym P
  SV  : Bool
  W   : Weight P
  L   : Idx P
  R   : Idx P
  deriving DecidableEq, Repr

/-- A node store (R28): index and record pairs, indices strictly rising, an unlisted index unwritten (R36). -/
abbrev Memory (P : Params) := List (Nat × NodeRec P)

/-- An entry of the serializer's stack (R40): node, depth, bit of the link from the parent. -/
structure StackEntry (P : Params) where
  n : Idx P
  d : BitVec P.SYM_BITS
  b : Bool
  deriving DecidableEq, Repr

/-- The serializer's stack (R40): position and entry pairs, positions strictly rising, an unlisted position
unwritten. -/
abbrev StackMemory (P : Params) := List (Nat × StackEntry P)

/-- What a host presents at the data input ports when it writes CMD (R72, R85). -/
structure Offer (P : Params) where
  freq : FreqTable P
  text : List Byte
  bits : List Bool
  deriving DecidableEq, Repr

/-- One thing a host does between two steps of the engine, or the engine's turn. R103: the host has exactly three
operations, a CMD write, a STATUS read and the reset input. -/
inductive HostEvent (P : Params) where
  /-- The host does nothing: the engine takes its next step. -/
  | run
  /-- A write of `w` to CMD while the host presents `offer` (R85). -/
  | writeCmd (w : BitVec 3) (offer : Offer P)
  /-- A read of STATUS (R96). -/
  | readStatus
  /-- The reset input is asserted (R230). -/
  | reset
  deriving DecidableEq, Repr

/-- The state. The fields in capitals are the spec's, under its names; `offer`, `script` and `statusReads` are the
model's own and stand for the host outside the block (log entries 2 and 3). -/
structure State (P : Params) where
  /-- R24. -/
  PHASE     : Phase
  /-- R25. -/
  CAUSE     : Cause
  /-- R23. -/
  TV        : Bool
  /-- R21. -/
  ROOT      : Idx P
  /-- R22. -/
  NEXT      : BitVec (P.IDX_BITS + 1)
  /-- R26. -/
  CUR       : Idx P
  /-- R27. -/
  I         : BitVec (P.SYM_BITS + 1)
  /-- R28, R36. -/
  NODE      : Memory P
  /-- R38: the set of queued indices, written in rising order. -/
  PQ        : List (Idx P)
  /-- R39. -/
  SYMACC    : BitVec (P.SYM_BITS + 4)
  /-- R39. -/
  NDIG      : Bool
  /-- R39. -/
  RSYM      : Sym P
  /-- R39. -/
  CURB      : Idx P
  /-- R39. -/
  DEPTH     : BitVec P.SYM_BITS
  /-- R41. -/
  CF        : Bool
  /-- R39. -/
  ASSIGNED  : Vector Bool P.N_SYM
  /-- R39. -/
  NPAIRS    : BitVec P.IDX_BITS
  /-- R40. -/
  STACK     : StackMemory P
  /-- R40. -/
  SP        : BitVec (P.SYM_BITS + 1)
  /-- R40. -/
  PATH      : Vector Bool P.MAX_CODE_LEN
  /-- R40. -/
  LEN       : BitVec P.SYM_BITS
  /-- R43: unbound until a BUILD is accepted. -/
  FREQ      : Option (FreqTable P)
  /-- R43: unbound until a RESTORE is accepted; the characters still to be read. -/
  IN_TEXT   : Option (List Byte)
  /-- R43: unbound until a DECODE is accepted; the bits still to be read. -/
  IN_BITS   : Option (List Bool)
  /-- R43. -/
  OUT_TEXT  : List Byte
  /-- R43, R168. -/
  OUT_PAIRS : List (Sym P × List Bool)
  /-- R43. -/
  OUT_SYMS  : List (Sym P)
  /-- The model's own: what the host presented with its last CMD write. -/
  offer     : Offer P
  /-- The model's own: what the host does from now on, the next thing first; when it is empty the host does nothing
  more. -/
  script    : List (HostEvent P)
  /-- The model's own: the STATUS values the host has read, oldest first. -/
  statusReads : List (BitVec 8)
  deriving DecidableEq, Repr

end Any

/-! The same types, at this hardware's parameters where none are named. -/

abbrev NodeRec (P : Params := hw) := Any.NodeRec P
abbrev Memory (P : Params := hw) := Any.Memory P
abbrev StackEntry (P : Params := hw) := Any.StackEntry P
abbrev StackMemory (P : Params := hw) := Any.StackMemory P
abbrev Offer (P : Params := hw) := Any.Offer P
abbrev HostEvent (P : Params := hw) := Any.HostEvent P
abbrev State (P : Params := hw) := Any.State P

/-- The reasons the MODEL stops, each where the spec says that no rule does the thing. None of them is a fault of the
block: a fault of the block (R201) is a next state with `PHASE = FAULT`. All are safe: the model stops, and claims
nothing about a machine that went on. -/
inductive Fault where
  /-- A read of `NODE[NIL]`, which R51 says no rule makes. Raised by `nodeAt`. Safe. -/
  | nilAccess
  /-- A read of an unwritten node record (R36: a fault of the model). Raised by `nodeAt`. Safe. -/
  | unwrittenNode
  /-- A read of an unwritten stack entry (U11). Raised by `stackAt`. Safe. -/
  | unwrittenStack
  /-- `alloc` outside its precondition `NEXT < NODE_CAP` (R54). Raised by `alloc`. Safe. -/
  | storeFull
  /-- `PQ.insert` of a further member into a queue of `PQ_CAP` members (R38). Raised by `pqInsert`. Safe. -/
  | queueFull
  /-- `PQ.extract_min` outside its precondition (R57). Raised by `extractMin`. Safe. -/
  | queueEmpty
  /-- A push beyond `STACK_CAP` entries (R40). Raised by `pushChildren`. Safe. -/
  | stackFull
  /-- A depth beyond `MAX_CODE_LEN` (R40). Raised by `pushChildren`. Safe. -/
  | depthOverflow
  /-- An index outside `0 .. N_SYM - 1` at FREQ (R60) or at ASSIGNED (R39). Raised by `freqAt`, `symLf`. Safe. -/
  | symbolOutOfRange
  /-- An input port used while it is unbound (R46). Raised by `freqAt` and by the engine's choice of its step. Safe. -/
  | unboundPort
  deriving DecidableEq, Repr

/-- The reasons the model has no move for an instruction. -/
inductive Refusal where
  /-- An instruction without a meaning. Raised by exec's arms. Safe. -/
  | notModelled (mnemonic : String)
  /-- A decoder bit or a text character outside the `PHASE` its steps are listed for: R101, "A step not listed for a
  `PHASE` does not exist." Raised by the meanings of formats BIT and TCHAR; the engine never asks for it. Safe. -/
  | noStepInPhase
  /-- `next` on an input source that has no more, which U10 says to refuse. Raised by the meanings of formats BIT and
  TCHAR; the engine never asks for it. Safe. -/
  | sourceExhausted
  deriving DecidableEq, Repr

/-- A host that presents nothing: every count 0, no text, no bits. -/
def Offer.empty {P : Params} : Offer P := { freq := Vector.replicate P.N_SYM 0, text := [], bits := [] }

/-- The state after reset (R46, R230), for any parameters. The node records, the stack entries and the bits of PATH are unspecified there:
the first two are unwritten, PATH is all zero (DESIGN CHOICE, log entry 4). The host has nothing to do (log entry 2). -/
def resetAt (P : Params) : State P :=
  { PHASE := .idle, CAUSE := .noFault, TV := false, ROOT := NIL, NEXT := 0, CUR := NIL, I := 0
    NODE := [], PQ := []
    SYMACC := 0, NDIG := false, RSYM := 0, CURB := NIL, DEPTH := 0, CF := false
    ASSIGNED := Vector.replicate P.N_SYM false, NPAIRS := 0
    STACK := [], SP := 0, PATH := Vector.replicate P.MAX_CODE_LEN false, LEN := 0
    FREQ := none, IN_TEXT := none, IN_BITS := none
    OUT_TEXT := [], OUT_PAIRS := [], OUT_SYMS := []
    offer := Offer.empty, script := [], statusReads := [] }

/-- The state of this hardware after reset. -/
def State.reset : State := resetAt hw

end Sys2Proof.Machine
end

