-- ==== Sys2Proof/Machine/Ops.lean ====
section
/-! DEFINITION. The named operations over the node store, the queue, the stack and the path, and fault entry (R206).
There is no return from a fault beside it: R208 gives none, and `blockReset` (R230) is the only way out of
`PHASE = FAULT`. -/

namespace Sys2Proof.Machine

variable {P : Params}

/-- An operation of the block ends in a value or in one of the model's own stops. -/
abbrev Op (α : Type) := Except Fault α

/-- The outcome of a step from the operation it is made of. -/
def settle : Op (State P) → Host.Outcome (State P) Fault Refusal
  | .ok s => .next s
  | .error f => .fault f

/-! Cells: the one representation of the node store and of the stack. -/

/-- The value listed at a key. -/
def cellGet {α : Type} : List (Nat × α) → Nat → Option α
  | [], _ => none
  | (k, v) :: m, i => if k = i then some v else cellGet m i

/-- The list with a value put at a key, in rising order of keys. -/
def cellPut {α : Type} : List (Nat × α) → Nat → α → List (Nat × α)
  | [], i, v => [(i, v)]
  | (k, x) :: m, i, v =>
    if i < k then (i, v) :: (k, x) :: m
    else if i = k then (i, v) :: m
    else (k, x) :: cellPut m i v

/-- Every key is at least `lo`, and the keys strictly rise. -/
def cellsFrom {α : Type} : Nat → List (Nat × α) → Bool
  | _, [] => true
  | lo, (k, _) :: m => decide (lo ≤ k) && cellsFrom (k + 1) m

/-- Every key is below a bound. -/
def cellsBelow {α : Type} (hi : Nat) (m : List (Nat × α)) : Bool := m.all (fun c => decide (c.1 < hi))

/-- The canonical form of a node store: indices strictly rising and below `NODE_CAP` (R28). An unlisted index reads as
no value (R36), so no entry can equal what an unlisted index reads as. -/
def Memory.wf (m : Memory P) : Bool := cellsFrom 0 m && cellsBelow P.NODE_CAP m

/-- The canonical form of the stack's array: positions strictly rising and below `STACK_CAP` (R40). -/
def StackMemory.wf (m : StackMemory P) : Bool := cellsFrom 0 m && cellsBelow P.STACK_CAP m

/-! The node store. -/

/-- A read of one record: `NIL` is no address (R51) and an unwritten record holds no value (R36). -/
def nodeRead (m : Memory P) (i : Idx P) : Op (NodeRec P) :=
  if i = NIL then .error .nilAccess
  else
    match cellGet m i.toNat with
    | some r => .ok r
    | none => .error .unwrittenNode

/-- `NODE[i]` (R11). -/
def nodeAt (s : State P) (i : Idx P) : Op (NodeRec P) := nodeRead s.NODE i

/-- `NODE[i] <- r` for a record a step has just read (R142, R143). -/
def nodeWrite (s : State P) (i : Idx P) (r : NodeRec P) : State P := { s with NODE := cellPut s.NODE i.toNat r }

/-- `alloc(rec)` (R54). -/
def alloc (r : NodeRec P) (s : State P) : Op (Idx P × State P) :=
  if s.NEXT.toNat < P.NODE_CAP then
    .ok (s.NEXT.setWidth P.IDX_BITS, { s with NODE := cellPut s.NODE s.NEXT.toNat r, NEXT := s.NEXT + 1 })
  else .error .storeFull

/-- Dropping a tree (R55): every record becomes unwritten at once. -/
def dropTree (s : State P) : State P := { s with NODE := [], NEXT := 0, ROOT := NIL, TV := false }

/-- The blank record RESTORE allocates (R131, R140). -/
def blankNode : NodeRec P := { SYM := 0, SV := false, W := 0, L := NIL, R := NIL }

/-- The child a bit leads to (R86): 0 left, 1 right. -/
def childOf (b : Bool) (r : NodeRec P) : Idx P := if b then r.R else r.L

/-- A record with the child a bit leads to replaced (R140, R142). -/
def withChild (b : Bool) (r : NodeRec P) (c : Idx P) : NodeRec P := if b then { r with R := c } else { r with L := c }

/-! The priority queue. -/

/-- A key: weight first, then index (R56). -/
abbrev Key (P : Params := hw) := Weight P × Idx P

/-- Keys compared lexicographically, weights and indices unsigned (R57). -/
def keyLt (x y : Key P) : Bool := decide (x.1 < y.1) || (x.1 == y.1 && decide (x.2 < y.2))

/-- The key of a member (R56). -/
def keyOf (m : Memory P) (i : Idx P) : Op (Key P) := do
  let r ← nodeRead m i
  .ok (r.W, i)

/-- The least of a key and the keys of further members (R57). -/
def leastKey (m : Memory P) : Key P → List (Idx P) → Op (Key P)
  | best, [] => .ok best
  | best, i :: q => do
    let k ← keyOf m i
    leastKey m (if keyLt k best then k else best) q

/-- `PQ.extract_min()` (R57): the member with the least key, and the set without it. -/
def extractMin (m : Memory P) : List (Idx P) → Op (Idx P × List (Idx P))
  | [] => .error .queueEmpty
  | i :: q => do
    let k ← keyOf m i
    let best ← leastKey m k q
    .ok (best.2, (i :: q).erase best.2)

/-- A set of indices, written in rising order, with a member added. -/
def queueAdd (i : Idx P) : List (Idx P) → List (Idx P)
  | [] => [i]
  | j :: q => if i < j then i :: j :: q else if i = j then j :: q else j :: queueAdd i q

/-- The written form of a set of indices: strictly rising. -/
def queueWf (q : List (Idx P)) : Bool := decide (q.Pairwise (· < ·))

/-- `PQ.insert(i)` (R56), within `PQ_CAP` members (R38). -/
def pqInsert (i : Idx P) (s : State P) : Op (State P) :=
  if s.PQ.contains i then .ok s
  else if s.PQ.length < P.PQ_CAP then .ok { s with PQ := queueAdd i s.PQ }
  else .error .queueFull

/-! The serializer's stack and path. -/

/-- `STACK[k]` (R40). -/
def stackAt (s : State P) (k : Nat) : Op (StackEntry P) :=
  match cellGet s.STACK k with
  | some e => .ok e
  | none => .error .unwrittenStack

/-- `PATH[k] <- b` (R162). -/
def pathPut (k : Nat) (b : Bool) (s : State P) : State P := { s with PATH := s.PATH.setIfInBounds k b }

/-- `[PATH[0], ..., PATH[LEN-1]]` (R162). -/
def pathBits (s : State P) : List Bool := s.PATH.toList.take s.LEN.toNat

/-! Fault entry and reset. -/

/-- Fault entry, `raise F` (R206): the cause is recorded, the engine halts, nothing else is written. -/
def raise (f : Cause) (s : State P) : State P := { s with CAUSE := f, PHASE := .fault }

/-- Reset (R230): every piece of the block's state at the value of R46. The host's own side of the model is not the
block's and stays (log entry 2). -/
def blockReset (s : State P) : State P :=
  { resetAt P with offer := s.offer, script := s.script, statusReads := s.statusReads }

end Sys2Proof.Machine
end

