-- ==== Sys2Proof/Machine/Flags.lean ====
section
/-! DEFINITION. The tests on node records, the conflict flag, and the layouts of CAUSE, PHASE and STATUS. -/

namespace Sys2Proof.Machine

variable {P : Params}

/-- `is_leaf` on a record (R31): both children are absent. -/
def isLeaf (r : NodeRec P) : Bool := r.L == NIL && r.R == NIL

/-- Exactly one child is absent (R148). -/
def oneChild (r : NodeRec P) : Bool := (r.L == NIL) != (r.R == NIL)

/-- There is `i < n` with exactly one child (R148). -/
def anyOneChild (m : Memory P) : Nat → Op Bool
  | 0 => .ok false
  | n + 1 => do
    let r ← nodeRead m (BitVec.ofNat P.IDX_BITS n)
    let rest ← anyOneChild m n
    .ok (oneChild r || rest)

/-- The conflict flag on stepping down out of a node (R140, R141): set when the node is assigned, else as it was. -/
def cfOnDescent (cf : Bool) (r : NodeRec P) : Bool := cf || r.SV

/-- The conflict flag on assigning a node (R143): set when it is assigned already or has a child, else as it was. -/
def cfOnAssign (cf : Bool) (r : NodeRec P) : Bool := cf || r.SV || !isLeaf r

/-- The cause codes (R201). -/
def Cause.code : Cause → BitVec 4
  | .noFault => 0
  | .fmtSymbol => 1
  | .fmtBitstring => 2
  | .fmtConflict => 3
  | .fmtIncomplete => 4
  | .streamTruncated => 5
  | .emptyTree => 6
  | .noTree => 7
  | .badCmd => 8

/-- The PHASE codes (R97). -/
def Phase.code : Phase → BitVec 3
  | .idle => 0b000
  | .bScan => 0b001
  | .bMerge => 0b010
  | .rSym => 0b011
  | .rBits => 0b100
  | .sWalk => 0b101
  | .dRun => 0b110
  | .fault => 0b111

/-- `BUSY` (R96): PHASE is neither IDLE nor FAULT. -/
def busy (s : State P) : Bool := s.PHASE != .idle && s.PHASE != .fault

/-- `STATUS` (R96): bits 7:6 zero, then BUSY, TV and CAUSE. -/
def status (s : State P) : BitVec 8 :=
  0#2 ++ BitVec.ofBool (busy s) ++ BitVec.ofBool s.TV ++ s.CAUSE.code

/-- The node record packed (R99): W, SYM, SV, L, R from the top. -/
def packNode (r : NodeRec P) : BitVec (P.WEIGHT_BITS + P.SYM_BITS + 1 + P.IDX_BITS + P.IDX_BITS) :=
  r.W ++ r.SYM ++ BitVec.ofBool r.SV ++ r.L ++ r.R

end Sys2Proof.Machine
end

