-- ==== Sys2Proof/Machine/Operands.lean ====
section
/-! DEFINITION. The operand forms: what a command binds to its input port (R85) and the operations of the five data
ports (R60 to R64). -/

namespace Sys2Proof.Machine

variable {P : Params}

/-- The frequency table is bound (R85). -/
def bindFreq (s : State P) : State P := { s with FREQ := some s.offer.freq }

/-- The table text is bound (R85). -/
def bindText (s : State P) : State P := { s with IN_TEXT := some s.offer.text }

/-- The bit sequence is bound (R85). -/
def bindBits (s : State P) : State P := { s with IN_BITS := some s.offer.bits }

/-- `FREQ(i)` (R60), for `i` in `0 .. N_SYM - 1`. -/
def freqAt (s : State P) (i : Nat) : Op (Count P) :=
  match s.FREQ with
  | none => .error .unboundPort
  | some f =>
    match f.toList[i]? with
    | some c => .ok c
    | none => .error .symbolOutOfRange

/-- `c > 0` for a count read as two's complement (R60, R100 row 1). -/
def countPositive (c : Count P) : Bool := decide (0 < c.toInt)

/-- The weight of a new leaf (R100 row 2): the count, zero-extended. -/
def countWeight (c : Count P) : Weight P := c.setWidth P.WEIGHT_BITS

/-- `TIN.next` (R61): consumes the head of IN_TEXT; outside its precondition there is no result. -/
def tinNext (s : State P) : Option (Byte × State P) :=
  match s.IN_TEXT with
  | some (c :: rest) => some (c, { s with IN_TEXT := some rest })
  | _ => none

/-- `TOUT.put` of characters in order (R62). -/
def toutPut (cs : List Byte) (s : State P) : State P := { s with OUT_TEXT := s.OUT_TEXT ++ cs }

/-- `BIT.next` (R63): consumes the head of IN_BITS; outside its precondition there is no result. -/
def bitNext (s : State P) : Option (Bool × State P) :=
  match s.IN_BITS with
  | some (b :: rest) => some (b, { s with IN_BITS := some rest })
  | _ => none

/-- `SINK.put` (R64). -/
def sinkPut (x : Sym P) (s : State P) : State P := { s with OUT_SYMS := s.OUT_SYMS ++ [x] }

/-- The digits of a number, most significant first, by at most `fuel` divisions (R163, R91). -/
def decFuel : Nat → Nat → List Byte
  | 0, _ => []
  | fuel + 1, n =>
    if n < 10 then [BitVec.ofNat 8 (0x30 + n)]
    else decFuel fuel (n / 10) ++ [BitVec.ofNat 8 (0x30 + n % 10)]

/-- `dec(s)` (R163): the symbol in decimal with no leading zeros. -/
def dec (x : Sym P) : List Byte := decFuel (x.toNat + 1) x.toNat

/-- The character of a bit (R163): `'0'` or `'1'`. -/
def bitChar (b : Bool) : Byte := if b then 0x31 else 0x30

/-- The characters of one record (R94, R163). -/
def recordText (x : Sym P) (p : List Bool) : List Byte := dec x ++ [0x0A#8] ++ p.map bitChar ++ [0x0A#8]

/-- `emit_record(s, p)` (R163): the record's characters, and the pair of the view OUT_PAIRS (R168). -/
def emitRecord (x : Sym P) (p : List Bool) (s : State P) : State P :=
  { toutPut (recordText x p) s with OUT_PAIRS := s.OUT_PAIRS ++ [(x, p)] }

end Sys2Proof.Machine
end

