-- ==== Sys2Proof/Machine/Automaton.lean ====
section
/-! DEFINITION. DECODE, the bit-decoder automaton (file 43_decode.md): its start, the instructions BIT.L and BIT.R
(R182 to R186) and its engine step at the end of the bits. -/

namespace Sys2Proof.Machine

variable {P : Params}

/-- Step DECODE.start (R181). -/
def decodeStart (s : State P) : State P := { s with CUR := s.ROOT, PHASE := .dRun }

/-- Step DECODE.end (R183). -/
def decodeEnd (s : State P) : State P :=
  if s.CUR = s.ROOT then { s with PHASE := .idle } else raise .streamTruncated s

/-- Step DECODE.bit (R184): the move, the leaf check in the same step. -/
def decodeMove (b : Bool) (s : State P) : Op (State P) := do
  let cur ← nodeAt s s.CUR
  let n := childOf b cur
  let r ← nodeAt s n
  .ok (if isLeaf r then { sinkPut r.SYM s with CUR := s.ROOT } else { s with CUR := n })

/-- The step of a bit that has been read (R182): DECODE.single on a single-leaf tree (R185), else DECODE.bit (R184). -/
def decodeRead (b : Bool) (s : State P) : Op (State P) := do
  let root ← nodeAt s s.ROOT
  if isLeaf root then .ok (sinkPut root.SYM s) else decodeMove b s

/-- A decoder bit (R182): on the empty tree DECODE.empty, which leaves the bit unread (R186). -/
def onBit (b : Bool) (s : State P) : Host.Outcome (State P) Fault Refusal :=
  if s.PHASE = .dRun then
    match bitNext s with
    | some (_, s1) => if s.ROOT = NIL then .next (raise .emptyTree s) else settle (decodeRead b s1)
    | none => .refused .sourceExhausted
  else .refused .noStepInPhase

/-- `BIT.L` (R184, R185, R186). -/
def execBitL (s : State P) : Host.Outcome (State P) Fault Refusal := onBit false s

/-- `BIT.R` (R184, R185, R186). -/
def execBitR (s : State P) : Host.Outcome (State P) Fault Refusal := onBit true s

end Sys2Proof.Machine
end

