-- ==== Sys2Proof/Machine/Build.lean ====
section
/-! DEFINITION. BUILD, the greedy merge engine (file 40_build.md): its start and its engine steps. -/

namespace Sys2Proof.Machine

variable {P : Params}

/-- Step BUILD.start (R111). -/
def buildStart (s : State P) : State P := { dropTree s with PQ := [], I := 0, PHASE := .bScan }

/-- The leaf of a symbol (R112). -/
def leafNode (i : BitVec (P.SYM_BITS + 1)) (c : Count P) : NodeRec P :=
  { SYM := i.setWidth P.SYM_BITS, SV := true, W := countWeight c, L := NIL, R := NIL }

/-- The leaf of symbol `I`, made and queued when its count is positive (R112, R113). -/
def scanCount (c : Count P) (s : State P) : Op (State P) :=
  if countPositive c then do
    let (n, s1) ← alloc (leafNode s.I c) s
    pqInsert n s1
  else .ok s

/-- The scan moves to the next symbol, and on to merging after the last (R112). -/
def scanNext (s : State P) : State P :=
  { s with I := s.I + 1, PHASE := if s.I + 1 = BitVec.ofNat (P.SYM_BITS + 1) P.N_SYM then .bMerge else s.PHASE }

/-- Step BUILD.scan (R112). -/
def buildScan (s : State P) : Op (State P) := do
  let c ← freqAt s s.I.toNat
  let s1 ← scanCount c s
  .ok (scanNext s1)

/-- The node a merge makes (R114): the first removed is the left child, the weight is the sum (R115). -/
def mergedNode (wa wb : Weight P) (a b : Idx P) : NodeRec P :=
  { SYM := 0, SV := false, W := wa + wb, L := a, R := b }

/-- Step BUILD.merge (R114), run when the queue has two members or more. -/
def buildMerge (s : State P) : Op (State P) := do
  let (a, q1) ← extractMin s.NODE s.PQ
  let (b, q2) ← extractMin s.NODE q1
  let ra ← nodeAt s a
  let rb ← nodeAt s b
  let (n, s1) ← alloc (mergedNode ra.W rb.W a b) { s with PQ := q2 }
  pqInsert n s1

/-- Step BUILD.finish (R116), run when the queue has at most one member. -/
def buildFinish (s : State P) : State P :=
  { s with ROOT := s.PQ.headD NIL, PQ := [], TV := true, PHASE := .idle }

end Sys2Proof.Machine
end

