-- ==== Sys2Proof/Machine/Restore.lean ====
section
/-! DEFINITION. RESTORE, the table-insertion engine (file 41_restore.md): its start, the meanings of the sixteen TCHAR
instructions (R133) and its engine steps at the end of the input. -/

namespace Sys2Proof.Machine

variable {P : Params}

/-- RESTORE's registers cleared (R131). -/
def restoreClear (s : State P) : State P :=
  { s with SYMACC := 0, NDIG := false, RSYM := 0, CURB := 0, DEPTH := 0, CF := false, NPAIRS := 0
           ASSIGNED := Vector.replicate P.N_SYM false, PHASE := .rSym }

/-- Step RESTORE.start (R131): the placeholder root (R132) is node 0. -/
def restoreStart (s : State P) : Op (State P) := do
  let (_, s1) ← alloc blankNode (dropTree s)
  .ok (restoreClear s1)

/-- A character of the table text (R133): the step of its class, run in the phase of its line kind, after the character
has been consumed. -/
def onChar (p : Phase) (k : State P → Op (State P)) (s : State P) : Host.Outcome (State P) Fault Refusal :=
  if s.PHASE = p then
    match tinNext s with
    | some (_, s1) => settle (k s1)
    | none => .refused .sourceExhausted
  else .refused .noStepInPhase

/-- Step RESTORE.sym_digit (R134) for a digit value. -/
def symDigit (d : Nat) (s : State P) : Op (State P) :=
  let s1 := { s with SYMACC := s.SYMACC * 10 + BitVec.ofNat (P.SYM_BITS + 4) d, NDIG := true }
  .ok (if P.N_SYM ≤ s1.SYMACC.toNat then raise .fmtSymbol s1 else s1)

/-- The symbol line is complete (R135). -/
def symAccept (s : State P) : State P :=
  { s with RSYM := s.SYMACC.setWidth P.SYM_BITS, CURB := 0, DEPTH := 0, PHASE := .rBits }

/-- Step RESTORE.sym_lf (R135, R139): the empty line is tested before the repeated symbol (R210). -/
def symLf (s : State P) : Op (State P) :=
  if s.NDIG = false then .ok (raise .fmtSymbol s)
  else
    match s.ASSIGNED.toList[s.SYMACC.toNat]? with
    | none => .error .symbolOutOfRange
    | some true => .ok (raise .fmtSymbol s)
    | some false => .ok (symAccept s)

/-- Step RESTORE.sym_other (R136). -/
def symOther (s : State P) : Op (State P) := .ok (raise .fmtSymbol s)

/-- A missing child is allocated blank and linked into its parent (R142). -/
def makeChild (b : Bool) (s : State P) : Op (Idx P × State P) := do
  let (c, s1) ← alloc blankNode s
  let r ← nodeAt s1 s1.CURB
  .ok (c, nodeWrite s1 s1.CURB (withChild b r c))

/-- The insertion cursor moves down one link (R140). -/
def descend (c : Idx P) (s : State P) : State P := { s with CURB := c, DEPTH := s.DEPTH + 1 }

/-- Step RESTORE.bit (R140): the length test, the conflict flag (R141), then the child, made if absent (R142). -/
def restoreBit (b : Bool) (s : State P) : Op (State P) :=
  if s.DEPTH.toNat = P.MAX_CODE_LEN then .ok (raise .fmtBitstring s)
  else do
    let r ← nodeAt s s.CURB
    let s1 := { s with CF := cfOnDescent s.CF r }
    if childOf b r = NIL then
      if s1.NEXT.toNat = P.NODE_CAP then .ok (raise .fmtBitstring s1)
      else do
        let (c, s2) ← makeChild b s1
        .ok (descend c s2)
    else .ok (descend (childOf b r) s1)

/-- The record is complete (R143). -/
def recordDone (s : State P) : State P :=
  { s with ASSIGNED := s.ASSIGNED.setIfInBounds s.RSYM.toNat true, NPAIRS := s.NPAIRS + 1
           SYMACC := 0, NDIG := false, PHASE := .rSym }

/-- Step RESTORE.bits_lf (R143). -/
def bitsLf (s : State P) : Op (State P) := do
  let r ← nodeAt s s.CURB
  let s1 := { s with CF := cfOnAssign s.CF r }
  .ok (recordDone (nodeWrite s1 s1.CURB { r with SV := true, SYM := s1.RSYM }))

/-- Step RESTORE.bits_other (R144). -/
def bitsOther (s : State P) : Op (State P) := .ok (raise .fmtBitstring s)

/-- A construction completes with a root (R116, R148). -/
def restoreFinish (r : Idx P) (s : State P) : State P := { s with ROOT := r, TV := true, PHASE := .idle }

/-- Step RESTORE.end (R148): the conflict test comes before the completeness test. -/
def restoreEnd (s : State P) : Op (State P) :=
  if s.NPAIRS = 0 then .ok (restoreFinish NIL s)
  else if s.CF then .ok (raise .fmtConflict s)
  else do
    let bad ← anyOneChild s.NODE s.NEXT.toNat
    .ok (if bad then raise .fmtIncomplete s else restoreFinish 0 s)

/-- Step RESTORE.sym_eof (R137). -/
def symEof (s : State P) : Op (State P) :=
  if s.NDIG then .ok (raise .fmtSymbol s) else restoreEnd s

/-- Step RESTORE.bits_eof (R145). -/
def bitsEof (s : State P) : State P := raise .fmtBitstring s

/-- `SYM.DIGIT0` (R134). -/
def execSymDigit0 (s : State P) : Host.Outcome (State P) Fault Refusal := onChar .rSym (symDigit 0) s

/-- `SYM.DIGIT1` (R134). -/
def execSymDigit1 (s : State P) : Host.Outcome (State P) Fault Refusal := onChar .rSym (symDigit 1) s

/-- `SYM.DIGIT2` (R134). -/
def execSymDigit2 (s : State P) : Host.Outcome (State P) Fault Refusal := onChar .rSym (symDigit 2) s

/-- `SYM.DIGIT3` (R134). -/
def execSymDigit3 (s : State P) : Host.Outcome (State P) Fault Refusal := onChar .rSym (symDigit 3) s

/-- `SYM.DIGIT4` (R134). -/
def execSymDigit4 (s : State P) : Host.Outcome (State P) Fault Refusal := onChar .rSym (symDigit 4) s

/-- `SYM.DIGIT5` (R134). -/
def execSymDigit5 (s : State P) : Host.Outcome (State P) Fault Refusal := onChar .rSym (symDigit 5) s

/-- `SYM.DIGIT6` (R134). -/
def execSymDigit6 (s : State P) : Host.Outcome (State P) Fault Refusal := onChar .rSym (symDigit 6) s

/-- `SYM.DIGIT7` (R134). -/
def execSymDigit7 (s : State P) : Host.Outcome (State P) Fault Refusal := onChar .rSym (symDigit 7) s

/-- `SYM.DIGIT8` (R134). -/
def execSymDigit8 (s : State P) : Host.Outcome (State P) Fault Refusal := onChar .rSym (symDigit 8) s

/-- `SYM.DIGIT9` (R134). -/
def execSymDigit9 (s : State P) : Host.Outcome (State P) Fault Refusal := onChar .rSym (symDigit 9) s

/-- `SYM.LF` (R135). -/
def execSymLf (s : State P) : Host.Outcome (State P) Fault Refusal := onChar .rSym symLf s

/-- `SYM.OTHER` (R136): the same step whatever the character. -/
def execSymOther (_c : Byte) (s : State P) : Host.Outcome (State P) Fault Refusal := onChar .rSym symOther s

/-- `BITS.0` (R140). -/
def execBits0 (s : State P) : Host.Outcome (State P) Fault Refusal := onChar .rBits (restoreBit false) s

/-- `BITS.1` (R140). -/
def execBits1 (s : State P) : Host.Outcome (State P) Fault Refusal := onChar .rBits (restoreBit true) s

/-- `BITS.LF` (R143). -/
def execBitsLf (s : State P) : Host.Outcome (State P) Fault Refusal := onChar .rBits bitsLf s

/-- `BITS.OTHER` (R144): the same step whatever the character. -/
def execBitsOther (_c : Byte) (s : State P) : Host.Outcome (State P) Fault Refusal := onChar .rBits bitsOther s

end Sys2Proof.Machine
end

