-- ==== Sys2Proof/Machine/Serialize.lean ====
section
/-! DEFINITION. SERIALIZE, the depth-first traversal engine (file 42_serialize.md): its start and its engine step. -/

namespace Sys2Proof.Machine

variable {P : Params}

/-- Step SERIALIZE.start (R161). -/
def serializeStart (s : State P) : State P :=
  if s.ROOT = NIL then { s with SP := 0, LEN := 0, PHASE := .sWalk }
  else
    { s with LEN := 0, STACK := cellPut s.STACK 0 { n := s.ROOT, d := 0, b := false }, SP := 1
             PHASE := .sWalk }

/-- The children of a node at depth `d` are pushed, the right one first (R162, R164), within the stack's capacity and
the depth's range (R40). -/
def pushChildren (r : NodeRec P) (d : BitVec P.SYM_BITS) (s : State P) : Op (State P) :=
  if d.toNat = P.MAX_CODE_LEN then .error .depthOverflow
  else if P.STACK_CAP < s.SP.toNat + 2 then .error .stackFull
  else
    .ok { s with
      STACK := cellPut (cellPut s.STACK s.SP.toNat { n := r.R, d := d + 1, b := true }) (s.SP.toNat + 1)
        { n := r.L, d := d + 1, b := false }
      SP := s.SP + 2 }

/-- The top entry is taken off the stack and the link that led to its node is written on the path (R162). -/
def popEntry (e : StackEntry P) (s : State P) : State P :=
  let s1 := { s with SP := s.SP - 1, LEN := e.d }
  if e.d = 0 then s1 else pathPut (e.d.toNat - 1) e.b s1

/-- Step SERIALIZE.walk (R162): one node is visited, or the command ends (R165). -/
def serializeWalk (s : State P) : Op (State P) :=
  if s.SP = 0 then .ok { s with PHASE := .idle }
  else do
    let e ← stackAt s (s.SP.toNat - 1)
    let s1 := popEntry e s
    let r ← nodeAt s1 e.n
    if isLeaf r then .ok (emitRecord r.SYM (pathBits s1) s1) else pushChildren r e.d s1

end Sys2Proof.Machine
end

