-- ==== Sys2Proof/Machine/Command.lean ====
section
/-! DEFINITION. Command acceptance (R85): the meanings of the eight words of CMD. -/

namespace Sys2Proof.Machine

variable {P : Params}

/-- A write to CMD has an effect only when `PHASE = IDLE`; otherwise it is ignored (R85). -/
def accept (k : State P → Op (State P)) (s : State P) : Host.Outcome (State P) Fault Refusal :=
  if s.PHASE = .idle then settle (k s) else .next s

/-- A command that needs a tree is refused with NO_TREE when there is none, and then binds nothing (R85). -/
def needTree (k : State P → State P) (s : State P) : Op (State P) :=
  .ok (if s.TV then k s else raise .noTree s)

/-- A reserved word (R83): BAD_CMD, whatever TV is (R210). -/
def badCmd (s : State P) : Op (State P) := .ok (raise .badCmd s)

/-- `BUILD` (R85, R111). -/
def execBuild (s : State P) : Host.Outcome (State P) Fault Refusal :=
  accept (fun s => .ok (buildStart (bindFreq s))) s

/-- `RESTORE` (R85, R131). -/
def execRestore (s : State P) : Host.Outcome (State P) Fault Refusal :=
  accept (fun s => restoreStart (bindText s)) s

/-- `SERIALIZE` (R85, R161). -/
def execSerialize (s : State P) : Host.Outcome (State P) Fault Refusal := accept (needTree serializeStart) s

/-- `DECODE` (R85, R181). -/
def execDecode (s : State P) : Host.Outcome (State P) Fault Refusal :=
  accept (needTree (fun s => decodeStart (bindBits s))) s

/-- `RESERVED.0` (R83). -/
def execReserved0 (s : State P) : Host.Outcome (State P) Fault Refusal := accept badCmd s

/-- `RESERVED.5` (R83). -/
def execReserved5 (s : State P) : Host.Outcome (State P) Fault Refusal := accept badCmd s

/-- `RESERVED.6` (R83). -/
def execReserved6 (s : State P) : Host.Outcome (State P) Fault Refusal := accept badCmd s

/-- `RESERVED.7` (R83). -/
def execReserved7 (s : State P) : Host.Outcome (State P) Fault Refusal := accept badCmd s

end Sys2Proof.Machine
end

