-- ==== Sys2Proof/Machine/Engine.lean ====
section
/-! DEFINITION. What runs next: the host's turn, the instruction the engine decodes from a command word, a decoder bit or
a character, or an engine step that is no instruction (R101, the whole table). -/

namespace Sys2Proof.Machine

variable {P : Params}

/-- The steps that are no instruction of spec/opcode_table.json: the engine steps of files 40 to 43 that consume no
encoded word, the host's reset and STATUS read, and the absence of a step. -/
inductive Internal where
  | buildScan
  | buildMerge
  | buildFinish
  | symEof
  | bitsEof
  | serializeWalk
  | decodeEnd
  /-- PHASE is IDLE or FAULT and nothing is written (R101). -/
  | hold
  /-- An input port is unbound where the engine must read it: no rule's state. -/
  | unbound
  | statusRead
  | blockReset
  deriving DecidableEq, Repr

/-- What a step does. -/
inductive Work where
  | instr (i : Instr)
  | internal (k : Internal)
  deriving DecidableEq, Repr

/-- The engine's choice of its next step, by PHASE and within a phase by the condition of R101's table: R112 to R116,
R133, R162, R182. The input is looked at, not yet consumed. -/
def engineWork (s : State P) : Work :=
  match s.PHASE with
  | .idle => .internal .hold
  | .fault => .internal .hold
  | .bScan => .internal .buildScan
  | .bMerge => if 2 ≤ s.PQ.length then .internal .buildMerge else .internal .buildFinish
  | .rSym =>
    match s.IN_TEXT with
    | none => .internal .unbound
    | some [] => .internal .symEof
    | some (c :: _) => .instr (decodeSymChar c)
  | .rBits =>
    match s.IN_TEXT with
    | none => .internal .unbound
    | some [] => .internal .bitsEof
    | some (c :: _) => .instr (decodeBitsChar c)
  | .sWalk => .internal .serializeWalk
  | .dRun =>
    match s.IN_BITS with
    | none => .internal .unbound
    | some [] => .internal .decodeEnd
    | some (b :: _) => .instr (decodeBit b)

/-- What runs next and the state it runs at: the head of the host's script is taken off; a CMD write presents the
host's operand and is decoded (R85), a STATUS read (R96) and a reset (R230) are the host's own, and otherwise the engine
takes its step (R241). -/
def fetch (s : State P) : Work × State P :=
  match s.script with
  | [] => (engineWork s, s)
  | .run :: rest => (engineWork s, { s with script := rest })
  | .writeCmd w o :: rest => (.instr (decodeCmd w), { s with script := rest, offer := o })
  | .readStatus :: rest => (.internal .statusRead, { s with script := rest })
  | .reset :: rest => (.internal .blockReset, { s with script := rest })

/-- The steps that are no instruction. -/
def runInternal : Internal → State P → Host.Outcome (State P) Fault Refusal
  | .buildScan, s => settle (Sys2Proof.Machine.buildScan s)
  | .buildMerge, s => settle (Sys2Proof.Machine.buildMerge s)
  | .buildFinish, s => .next (Sys2Proof.Machine.buildFinish s)
  | .symEof, s => settle (Sys2Proof.Machine.symEof s)
  | .bitsEof, s => .next (Sys2Proof.Machine.bitsEof s)
  | .serializeWalk, s => settle (Sys2Proof.Machine.serializeWalk s)
  | .decodeEnd, s => .next (Sys2Proof.Machine.decodeEnd s)
  | .hold, s => .next s
  | .unbound, _ => .fault .unboundPort
  | .statusRead, s => .next { s with statusReads := s.statusReads ++ [status s] }
  | .blockReset, s => .next (Sys2Proof.Machine.blockReset s)

/-- The state with a word placed where the next step takes its instruction from. A command word is the host's next
write, with what the host presents now. A decoder bit or a character is put in front of its input, the phase is that of
its format, and the engine has the next turn. -/
def placeWord (s : State P) (f : Format) (w : Nat) : State P :=
  match f with
  | .cmd => { s with script := .writeCmd (BitVec.ofNat 3 w) s.offer :: s.script }
  | .bit => { s with PHASE := .dRun, IN_BITS := some ((w == 1) :: s.IN_BITS.getD []), script := .run :: s.script }
  | .symLine =>
    { s with PHASE := .rSym, IN_TEXT := some (BitVec.ofNat 8 w :: s.IN_TEXT.getD []), script := .run :: s.script }
  | .bitsLine =>
    { s with PHASE := .rBits, IN_TEXT := some (BitVec.ofNat 8 w :: s.IN_TEXT.getD []), script := .run :: s.script }

end Sys2Proof.Machine
end

