-- ==== Sys2Proof/Machine/Dispatch.lean ====
section
/-! DEFINITION. Dispatch: one arm per constructor of Instr, each one direct call of its meaning. -/

namespace Sys2Proof.Machine

def exec (i : Instr) (s : State) : Host.Outcome State Fault Refusal :=
  match i with
  | .build => Sys2Proof.Machine.execBuild s
  | .restore => Sys2Proof.Machine.execRestore s
  | .serialize => Sys2Proof.Machine.execSerialize s
  | .decode => Sys2Proof.Machine.execDecode s
  | .reserved0 => Sys2Proof.Machine.execReserved0 s
  | .reserved5 => Sys2Proof.Machine.execReserved5 s
  | .reserved6 => Sys2Proof.Machine.execReserved6 s
  | .reserved7 => Sys2Proof.Machine.execReserved7 s
  | .bitL => Sys2Proof.Machine.execBitL s
  | .bitR => Sys2Proof.Machine.execBitR s
  | .symDigit0 => Sys2Proof.Machine.execSymDigit0 s
  | .symDigit1 => Sys2Proof.Machine.execSymDigit1 s
  | .symDigit2 => Sys2Proof.Machine.execSymDigit2 s
  | .symDigit3 => Sys2Proof.Machine.execSymDigit3 s
  | .symDigit4 => Sys2Proof.Machine.execSymDigit4 s
  | .symDigit5 => Sys2Proof.Machine.execSymDigit5 s
  | .symDigit6 => Sys2Proof.Machine.execSymDigit6 s
  | .symDigit7 => Sys2Proof.Machine.execSymDigit7 s
  | .symDigit8 => Sys2Proof.Machine.execSymDigit8 s
  | .symDigit9 => Sys2Proof.Machine.execSymDigit9 s
  | .symLf => Sys2Proof.Machine.execSymLf s
  | .symOther c => Sys2Proof.Machine.execSymOther c s
  | .bits0 => Sys2Proof.Machine.execBits0 s
  | .bits1 => Sys2Proof.Machine.execBits1 s
  | .bitsLf => Sys2Proof.Machine.execBitsLf s
  | .bitsOther c => Sys2Proof.Machine.execBitsOther c s

end Sys2Proof.Machine
end

