-- ==== Sys2Proof/Machine/Step.lean ====
section
/-! DEFINITION. One step (R66): what `fetch` says runs next, at the state it gives. -/

namespace Sys2Proof.Machine

/-- One step of the machine: atomic (R66), an instruction or an engine step that is none. -/
def step (s : State) : Host.Outcome State Fault Refusal :=
  match fetch s with
  | (.instr i, s1) => exec i s1
  | (.internal k, s1) => runInternal k s1

/-- `s` with a word of spec/opcode_table.json placed where the next step takes its instruction from. -/
def State.withFetchWord (s : State) (nbits w : Nat) : State := placeWord s (tableFormat nbits w) w

end Sys2Proof.Machine
end

