-- ==== Sys2Proof/Machine/AnyParams.lean ====
section
/-! DEFINITION. The machine for any parameters of R8. Every meaning and every engine step takes the parameters as an
argument; `exec` and `step` of Dispatch.lean and Step.lean are these two at the parameters of this hardware
(Sys2Proof/Laws/AnyParams.lean). -/

namespace Sys2Proof.Machine

variable {P : Params}

/-- `exec` for any parameters. -/
def execAt (i : Instr) (s : State P) : Host.Outcome (State P) Fault Refusal :=
  match i with
  | .build => execBuild s
  | .restore => execRestore s
  | .serialize => execSerialize s
  | .decode => execDecode s
  | .reserved0 => execReserved0 s
  | .reserved5 => execReserved5 s
  | .reserved6 => execReserved6 s
  | .reserved7 => execReserved7 s
  | .bitL => execBitL s
  | .bitR => execBitR s
  | .symDigit0 => execSymDigit0 s
  | .symDigit1 => execSymDigit1 s
  | .symDigit2 => execSymDigit2 s
  | .symDigit3 => execSymDigit3 s
  | .symDigit4 => execSymDigit4 s
  | .symDigit5 => execSymDigit5 s
  | .symDigit6 => execSymDigit6 s
  | .symDigit7 => execSymDigit7 s
  | .symDigit8 => execSymDigit8 s
  | .symDigit9 => execSymDigit9 s
  | .symLf => execSymLf s
  | .symOther c => execSymOther c s
  | .bits0 => execBits0 s
  | .bits1 => execBits1 s
  | .bitsLf => execBitsLf s
  | .bitsOther c => execBitsOther c s

/-- `step` for any parameters. -/
def stepAt (s : State P) : Host.Outcome (State P) Fault Refusal :=
  match fetch s with
  | (.instr i, s1) => execAt i s1
  | (.internal k, s1) => runInternal k s1

/-- The machine with given parameters. -/
def machineAt (P : Params) : Host.Core :=
  { State := State P, Fault := Fault, Refusal := Refusal, step := stepAt, reset := resetAt P }

end Sys2Proof.Machine
end

