-- ==== Sys2Proof/Machine/Tree.lean ====
section
/-! DEFINITION. The abstract tree (R13) and the results of the commands as functions on abstract trees: the merge of a
forest (R121), the records of a tree and their text (R166), the decoding of a bit sequence (R188). No step calls them;
claims compare the machine with them. -/

namespace Sys2Proof.Machine

variable {P : Params}

namespace Any

/-- A tree that is not empty (R13). -/
inductive CodeTree (P : Params) where
  | leaf (s : Sym P)
  | node (l r : CodeTree P)
  deriving DecidableEq, Repr

end Any

/-- `Any.CodeTree`, at this hardware's parameters where none are named. -/
abbrev CodeTree (P : Params := hw) := Any.CodeTree P

/-- `Tree` of R13: the empty tree is `none`. -/
abbrev AnyTree (P : Params := hw) := Option (CodeTree P)

/-- The node with an index is the root of a stored copy of a tree: the relation of the abstraction function `sub` of
R13. -/
def treeAt (m : Memory P) : CodeTree P → Idx P → Prop
  | .leaf x, i => ∃ r, nodeRead m i = .ok r ∧ isLeaf r = true ∧ r.SYM = x
  | .node a b, i => ∃ r, nodeRead m i = .ok r ∧ isLeaf r = false ∧ treeAt m a r.L ∧ treeAt m b r.R

/-- The relation of `tree_of` (R13): `NIL` stands for the empty tree. -/
def treeOf (m : Memory P) : AnyTree P → Idx P → Prop
  | none, i => i = NIL
  | some t, i => treeAt m t i

/-- `sub` of R13 computed, to at most `fuel` links below the index. -/
def subTree (m : Memory P) : Nat → Idx P → Option (CodeTree P)
  | 0, _ => none
  | fuel + 1, i =>
    match nodeRead m i with
    | .error _ => none
    | .ok r =>
      if isLeaf r then some (.leaf r.SYM)
      else
        match subTree m fuel r.L, subTree m fuel r.R with
        | some a, some b => some (.node a b)
        | _, _ => none

/-- The leaves' symbols, left to right. -/
def leavesOf : CodeTree P → List (Sym P)
  | .leaf x => [x]
  | .node a b => leavesOf a ++ leavesOf b

/-- The number of nodes. -/
def sizeOfTree : CodeTree P → Nat
  | .leaf _ => 1
  | .node a b => sizeOfTree a + sizeOfTree b + 1

/-- The greatest depth of a leaf (R32). -/
def depthOf : CodeTree P → Nat
  | .leaf _ => 0
  | .node a b => max (depthOf a) (depthOf b) + 1

/-- The weighted code length (R122): the sum over the leaves of count times depth, the tree standing at depth `d`. -/
def costOf (f : FreqTable P) : CodeTree P → Nat → Nat
  | .leaf x, d => (f.toList.getD x.toNat 0).toNat * d
  | .node a b, d => costOf f a (d + 1) + costOf f b (d + 1)

/-- A code for symbols, as a list of a symbol's index and its bit-string, is a prefix code (R14): no bit-string is a
prefix of another. -/
def isPrefixCode (code : List (Nat × List Bool)) : Prop := code.Pairwise (fun x y => ¬ x.2 <+: y.2 ∧ ¬ y.2 <+: x.2)

/-- The total weighted code length of a code (R122): the sum of count times length. -/
def codeCost (f : FreqTable P) (code : List (Nat × List Bool)) : Nat :=
  (code.map (fun q => (f.toList.getD q.1 0).toNat * q.2.length)).sum

/-! SERIALIZE (R166). -/

/-- `walk(t, p)` (R166). -/
def walkTree : CodeTree P → List Bool → List (Sym P × List Bool)
  | .leaf x, p => [(x, p)]
  | .node a b, p => walkTree a (p ++ [false]) ++ walkTree b (p ++ [true])

/-- `ser(t)` (R166). -/
def serTree : AnyTree P → List (Sym P × List Bool)
  | none => []
  | some t => walkTree t []

/-- `text` of a sequence of records (R166). -/
def textOf (ps : List (Sym P × List Bool)) : List Byte := ps.flatMap (fun p => recordText p.1 p.2)

/-! DECODE (R188). -/

/-- `go` (R188), with the whole tree to go back to at a leaf. -/
def goTree (whole : CodeTree P) : CodeTree P → List Bool → Bool → List (Sym P) × Cause
  | _, [], atRoot => ([], if atRoot then .noFault else .streamTruncated)
  | .leaf _, _ :: _, _ => ([], .streamTruncated)
  | .node a b, x :: bs, _ =>
    match (if x then b else a) with
    | .leaf y => (y :: (goTree whole whole bs true).1, (goTree whole whole bs true).2)
    | .node c d => goTree whole (.node c d) bs false

/-- `decode(t, bits)` (R188): the symbols emitted and the outcome, `noFault` standing for `ok`. -/
def decodeTree : AnyTree P → List Bool → List (Sym P) × Cause
  | none, [] => ([], .noFault)
  | none, _ :: _ => ([], .emptyTree)
  | some (.leaf x), bs => (List.replicate bs.length x, .noFault)
  | some (.node a b), bs => goTree (.node a b) (.node a b) bs true

/-! BUILD (R121). -/

namespace Any

/-- A member of a forest (R121): weight, sequence number, tree. -/
structure Grown (P : Params) where
  w : Nat
  q : Nat
  t : CodeTree P
  deriving DecidableEq, Repr

end Any

/-- `Any.Grown`, at this hardware's parameters where none are named. -/
abbrev Grown (P : Params := hw) := Any.Grown P

/-- The order of R121: by weight, then by sequence number. -/
def grownLt (x y : Grown P) : Bool := decide (x.w < y.w) || (x.w == y.w && decide (x.q < y.q))

/-- The least of a member and further members (R121). -/
def leastGrown : Grown P → List (Grown P) → Grown P
  | x, [] => x
  | x, y :: f => leastGrown (if grownLt y x then y else x) f

/-- A forest without a member (R121); sequence numbers are distinct. -/
def without (x : Grown P) (f : List (Grown P)) : List (Grown P) := f.filter (fun y => y.q != x.q)

/-- `merge(F, q)` (R121), for at most `fuel` merges. -/
def mergeForest : Nat → List (Grown P) → Nat → AnyTree P
  | _, [], _ => none
  | _, [x], _ => some x.t
  | 0, _ :: _ :: _, _ => none
  | fuel + 1, x0 :: y0 :: f, q =>
    let x := leastGrown x0 (y0 :: f)
    match without x (x0 :: y0 :: f) with
    | [] => none
    | z :: rest =>
      let y := leastGrown z rest
      mergeForest fuel ({ w := x.w + y.w, q := q, t := .node x.t y.t } :: without y (z :: rest)) (q + 1)

/-- The symbols with a positive count, ascending (R112, R121). -/
def positives (f : FreqTable P) : List Nat :=
  (List.range P.N_SYM).filter (fun i => countPositive (f.toList.getD i 0))

/-- `forest0(freq)` (R121): the j-th symbol with a positive count is the member with sequence number j. -/
def forest0 (f : FreqTable P) : List (Grown P) :=
  (positives f).zipIdx.map (fun p =>
    { w := (f.toList.getD p.1 0).toNat, q := p.2, t := .leaf (BitVec.ofNat P.SYM_BITS p.1) })

/-- `build(freq)` (R121). -/
def buildTree (f : FreqTable P) : AnyTree P := mergeForest P.N_SYM (forest0 f) (positives f).length

end Sys2Proof.Machine
end

