-- ==== Sys2Proof/Safety.lean ====
section
/-! DEFINITION. What counts as a good state and a good run, in the terms claims use, for any parameters of R8. Every
predicate but those on the cursor and on runs is a Bool or an abbreviation of a decidable proposition, so that a witness is
checked by evaluation. -/

namespace Sys2Proof.Machine

variable {P : Params}

/-- The engine has the turn at `s`, and takes it at `s1`: the host's script is over, or its head is `run`. -/
abbrev EngineTurn (s s1 : State P) : Prop :=
  (s.script = [] ∧ s1 = s) ∨ (s.script.head? = some .run ∧ s1 = { s with script := s.script.tail })

/-- The next thing the host does is not the reset input. -/
abbrev NoReset (s : State P) : Prop := s.script.head? ≠ some .reset

/-- The block's own state is the same; only the host's side (`offer`, `script`, `statusReads`) may differ. -/
abbrev SameBlock (s t : State P) : Prop :=
  t = { s with offer := t.offer, script := t.script, statusReads := t.statusReads }

/-- The rows of R46's table, each at the value it gives; where it says "unspecified", that nothing can be read. -/
abbrev AtReset (t : State P) : Prop :=
  t.PHASE = .idle ∧ t.CAUSE = .noFault ∧ t.TV = false ∧ t.ROOT = NIL ∧ t.NEXT = 0 ∧ t.CUR = NIL ∧ t.I = 0 ∧
  t.NODE = [] ∧ t.PQ = [] ∧ t.SYMACC = 0 ∧ t.NDIG = false ∧ t.RSYM = 0 ∧ t.DEPTH = 0 ∧ t.CF = false ∧ t.NPAIRS = 0 ∧
  t.CURB = NIL ∧ t.ASSIGNED = Vector.replicate P.N_SYM false ∧ t.STACK = [] ∧ t.SP = 0 ∧ t.LEN = 0 ∧ status t = 0x00#8 ∧
  t.FREQ = none ∧ t.IN_TEXT = none ∧ t.IN_BITS = none ∧ t.OUT_TEXT = [] ∧ t.OUT_PAIRS = [] ∧ t.OUT_SYMS = []

/-- PHASE is one of BUILD's. -/
abbrev InBuild (s : State P) : Prop := s.PHASE = .bScan ∨ s.PHASE = .bMerge

/-- PHASE is one of RESTORE's. -/
abbrev InRestore (s : State P) : Prop := s.PHASE = .rSym ∨ s.PHASE = .rBits

/-- A link is absent or leads to a written record (R33, R36). -/
abbrev linkOk (next : BitVec (P.IDX_BITS + 1)) (c : Idx P) : Prop := c = NIL ∨ c.toNat < next.toNat

/-- The entries on the stack are written and their nodes are absent or written (R36, R40). -/
abbrev stackOk (s : State P) : Prop := ∀ k < s.SP.toNat, ∃ e ∈ cellGet s.STACK k, linkOk s.NEXT e.n

/-- Every register that holds a node index leads into the records below NEXT while it is in use, or is `NIL` where the
spec allows `NIL` (R36): ROOT, the queue, CURB in a RESTORE, the stack (empty outside SERIALIZE), CUR in a DECODE. -/
abbrev IndicesOk (s : State P) : Prop :=
  linkOk s.NEXT s.ROOT ∧ (∀ i ∈ s.PQ, i.toNat < s.NEXT.toNat) ∧ (InRestore s → s.CURB.toNat < s.NEXT.toNat) ∧
  stackOk s ∧ (s.SP ≠ 0 → s.PHASE = .sWalk) ∧ (s.PHASE = .dRun → linkOk s.NEXT s.CUR)

/-- The store holds exactly the records below NEXT, and every index kept anywhere leads into it (R22, R36); the symbols
of the records and RSYM are members of the alphabet (R33); the queue keeps its form and its capacity and is empty outside BUILD
(R38); the stack keeps its form and its capacity (R40); the scan index keeps its range (R27). -/
abbrev StoreInv (s : State P) : Prop :=
  s.NODE.map Prod.fst = List.range s.NEXT.toNat ∧ s.NEXT.toNat ≤ P.NODE_CAP ∧
  (∀ c ∈ s.NODE, linkOk s.NEXT c.2.L ∧ linkOk s.NEXT c.2.R ∧ c.2.SYM.toNat < P.N_SYM) ∧
  s.RSYM.toNat < P.N_SYM ∧ IndicesOk s ∧
  queueWf s.PQ = true ∧ s.PQ.length ≤ P.PQ_CAP ∧ (s.PQ ≠ [] → InBuild s) ∧
  StackMemory.wf s.STACK = true ∧ s.SP.toNat ≤ P.STACK_CAP ∧ s.I.toNat ≤ P.N_SYM

/-- The flags and the phase agree (R23, R25, R206): the cause is recorded exactly in FAULT, a construction runs with no
tree, SERIALIZE and DECODE run with one, and no root is kept without a tree. -/
abbrev FlagInv (s : State P) : Prop :=
  (s.PHASE = .fault ↔ s.CAUSE ≠ .noFault) ∧ (InBuild s ∨ InRestore s → s.TV = false) ∧
  (s.PHASE = .sWalk ∨ s.PHASE = .dRun → s.TV = true) ∧ (s.TV = false → s.ROOT = NIL)

/-- RESTORE's registers (R39, R139): NPAIRS counts the assigned symbols, the symbol accumulator is a symbol, and the
symbol of the record being read is not yet assigned. -/
abbrev RestoreRegs (s : State P) : Prop :=
  InRestore s →
    s.NPAIRS.toNat = s.ASSIGNED.toList.count true ∧ (s.PHASE = .rSym → s.SYMACC.toNat < P.N_SYM) ∧
    (s.PHASE = .rBits → s.ASSIGNED.toList[s.RSYM.toNat]? = some false)

/-- A record with two children and no symbol, or with none and a symbol (R33). -/
abbrev finished (r : NodeRec P) : Prop := r.SV = isLeaf r ∧ oneChild r = false

/-- The node a bit-string leads to from a node, one link for each bit, the first link first (R32); `none` when a record
on the way cannot be read. -/
def followPath (m : Memory P) : Idx P → List Bool → Option (Idx P)
  | i, [] => some i
  | i, b :: q =>
    match nodeRead m i with
    | .ok r => followPath m (childOf b r) q
    | .error _ => none

/-- `j` is reachable from `i` (R32): some bit-string leads there. -/
def Reachable (m : Memory P) (i j : Idx P) : Prop := ∃ q, followPath m i q = some j

/-- The cursor during a DECODE (R187): NIL on the empty tree, the root on a single leaf, else a node with children that
is reachable from the root. -/
def cursorOk (s : State P) : Prop :=
  (s.ROOT = NIL → s.CUR = NIL) ∧
  ∀ root, nodeRead s.NODE s.ROOT = .ok root →
    (isLeaf root = true → s.CUR = s.ROOT) ∧
    (isLeaf root = false →
      (∃ c, nodeRead s.NODE s.CUR = .ok c ∧ isLeaf c = false) ∧ Reachable s.NODE s.ROOT s.CUR)

/-- The shape of the records: finished under BUILD and in every tree that is not empty (R33, R118, R151). -/
abbrev RecordsFinished (s : State P) : Prop :=
  InBuild s ∨ (s.TV = true ∧ s.ROOT ≠ NIL) → ∀ c ∈ s.NODE, finished c.2

/-- Under RESTORE with no conflict seen (R142, R149, R151): before the first record only the placeholder root; between
records a node is assigned exactly when it is a leaf; inside a bit-string line the same but for the node reached, which
if assigned is a leaf. -/
abbrev RecordsGrowing (s : State P) : Prop :=
  (s.PHASE = .rSym ∧ s.CF = false →
    if s.NPAIRS = 0 then s.NODE = [(0, blankNode)] else ∀ c ∈ s.NODE, c.2.SV = isLeaf c.2) ∧
  (s.PHASE = .rBits ∧ s.CF = false →
    ∀ c ∈ s.NODE, if c.1 = s.CURB.toNat then (c.2.SV = true → isLeaf c.2 = true) else c.2.SV = isLeaf c.2)

/-- The shape of the records and of the cursor (R33, R187), with what it rests on. -/
abbrev ShapeInv (s : State P) : Prop :=
  StoreInv s ∧ FlagInv s ∧ RestoreRegs s ∧ RecordsFinished s ∧ RecordsGrowing s ∧
  (s.PHASE = .dRun → cursorOk s)

/-- The links of a record that are not absent (R32). -/
def kids (r : NodeRec P) : List (Idx P) := [r.L, r.R].filter (fun c => c != NIL)

/-- Every link of the store that is not absent (R35). -/
def allKids (m : Memory P) : List (Idx P) := m.flatMap (fun c => kids c.2)

/-- Every link of the store leads to an older record, as in a tree BUILD makes (R114). -/
abbrev LinksDown (m : Memory P) : Prop := ∀ c ∈ m, ∀ k ∈ kids c.2, k.toNat < c.1

/-- Every link of the store leads to a younger record, as in a tree RESTORE makes (R142). -/
abbrev LinksUp (m : Memory P) : Prop := ∀ c ∈ m, ∀ k ∈ kids c.2, c.1 < k.toNat

/-- Ownership (R35): every index is a child at most once, neither the root nor a queued node is a child, and links lead
one way, so no node is below its own child. -/
abbrev Owned (s : State P) : Prop :=
  (allKids s.NODE).Nodup ∧ s.ROOT ∉ allKids s.NODE ∧ (∀ i ∈ s.PQ, i ∉ allKids s.NODE) ∧
  (LinksDown s.NODE ∨ LinksUp s.NODE) ∧ (InBuild s → LinksDown s.NODE) ∧ (InRestore s → LinksUp s.NODE)

/-- Ownership, with what it rests on. -/
abbrev OwnInv (s : State P) : Prop := StoreInv s ∧ FlagInv s ∧ Owned s

/-- A run of `k` steps that stops nowhere and ends in a state. -/
abbrev RunsTo (k : Nat) (s t : State) : Prop := Sys2Proof.core.run k s = Host.Outcome.next t

/-- The pairs of phases R101's table has a row for, but for reset, together with the steps of the host. -/
def phaseRow : Phase → Phase → Bool
  | .idle, .idle => true
  | .idle, .bScan => true
  | .idle, .rSym => true
  | .idle, .sWalk => true
  | .idle, .dRun => true
  | .idle, .fault => true
  | .bScan, .bScan => true
  | .bScan, .bMerge => true
  | .bMerge, .bMerge => true
  | .bMerge, .idle => true
  | .rSym, .rSym => true
  | .rSym, .rBits => true
  | .rSym, .fault => true
  | .rSym, .idle => true
  | .rBits, .rBits => true
  | .rBits, .fault => true
  | .rBits, .rSym => true
  | .sWalk, .sWalk => true
  | .sWalk, .idle => true
  | .dRun, .idle => true
  | .dRun, .fault => true
  | .dRun, .dRun => true
  | .fault, .fault => true
  | _, _ => false

/-- The ten digit instructions with their digit values (R93). -/
def digitInstrs : List (Instr × Nat) :=
  [(.symDigit0, 0), (.symDigit1, 1), (.symDigit2, 2), (.symDigit3, 3), (.symDigit4, 4), (.symDigit5, 5),
   (.symDigit6, 6), (.symDigit7, 7), (.symDigit8, 8), (.symDigit9, 9)]

/-- The two instructions of a bit character with their bits (R92, R93). -/
def bitCharInstrs : List (Instr × Bool) := [(.bits0, false), (.bits1, true)]

/-- The two decoder instructions with their bits (R86). -/
def bitInstrs : List (Instr × Bool) := [(.bitL, false), (.bitR, true)]

/-- The four reserved command words (R83). -/
def reservedInstrs : List Instr := [.reserved0, .reserved5, .reserved6, .reserved7]

end Sys2Proof.Machine
end

