-- ==== Sys2Proof/Certificates/Slice0/Obligations.lean ====
section
/-! DEFINITION. The statements for the provers. Each docstring names the rule of spec/ it formalises. `s1` is always the
state at which a step runs: the host's part of the turn has been taken off the script. -/

open Sys2Proof Sys2Proof.Machine

/-! Encoding. -/

/-- R80, R81, R83, R86, R93: decoding and encoding are inverse. A word of a format decodes to an instruction exactly when
the instruction is well formed, is encoded in that format and has that word. -/
def Obligations.DecodeInvertsEncode : Prop :=
  ∀ (f : Format) (w : Nat) (i : Instr), decode f w = .ok i ↔ (i.wf = true ∧ i.format = f ∧ encode i = w)

/-- R80, R86, R93: a format has no illegal word; only a number wider than the format is refused. -/
def Obligations.FormatDecodesExactlyItsWords : Prop :=
  ∀ (f : Format) (w : Nat), (∃ i, decode f w = .ok i) ↔ w < 2 ^ f.width

/-- R81, R83, R86, R93: words copied from the spec's tables. -/
def Obligations.SpecWordsDecode : Prop :=
  decode .cmd 0b001 = .ok .build ∧ decode .cmd 0b010 = .ok .restore ∧ decode .cmd 0b011 = .ok .serialize ∧
  decode .cmd 0b100 = .ok .decode ∧ decode .cmd 0b000 = .ok .reserved0 ∧ decode .cmd 0b111 = .ok .reserved7 ∧
  decode .bit 0 = .ok .bitL ∧ decode .bit 1 = .ok .bitR ∧
  decode .symLine 0x30 = .ok .symDigit0 ∧ decode .symLine 0x39 = .ok .symDigit9 ∧ decode .symLine 0x0A = .ok .symLf ∧
  decode .symLine 0x2D = .ok (.symOther 0x2D) ∧ decode .bitsLine 0x30 = .ok .bits0 ∧
  decode .bitsLine 0x31 = .ok .bits1 ∧ decode .bitsLine 0x0A = .ok .bitsLf ∧
  decode .bitsLine 0x32 = .ok (.bitsOther 0x32)

/-- R85, R133, R182: a step runs the decoded instruction. A CMD write is decoded in any phase; in R_SYM and R_BITS the
first character, and in D_RUN the first bit, is decoded by the format of the phase. The step is then exec of that
instruction, which itself consumes what it reads. -/
def Obligations.StepRunsDecoded : Prop :=
  (∀ (s : State) (w : BitVec 3) (o : Offer) (rest : List HostEvent) (i : Instr),
    s.script = .writeCmd w o :: rest → decode .cmd w.toNat = .ok i →
    step s = exec i { s with script := rest, offer := o }) ∧
  (∀ (s s1 : State) (c : Byte) (cs : List Byte) (i : Instr),
    EngineTurn s s1 → s.PHASE = .rSym → s.IN_TEXT = some (c :: cs) → decode .symLine c.toNat = .ok i →
    step s = exec i s1) ∧
  (∀ (s s1 : State) (c : Byte) (cs : List Byte) (i : Instr),
    EngineTurn s s1 → s.PHASE = .rBits → s.IN_TEXT = some (c :: cs) → decode .bitsLine c.toNat = .ok i →
    step s = exec i s1) ∧
  (∀ (s s1 : State) (b : Bool) (bs : List Bool) (i : Instr),
    EngineTurn s s1 → s.PHASE = .dRun → s.IN_BITS = some (b :: bs) → decode .bit b.toNat = .ok i →
    step s = exec i s1)

/-! Reset, STATUS, codes. -/

/-- R46: the state after reset, every row of the table, for any parameters of R8; State.reset is that of this hardware. A
row that says "unspecified" gives nothing to state but that no record can be read. -/
def Obligations.ResetValues : Prop :=
  State.reset = resetAt hw ∧
  ∀ P : Params, AtReset (resetAt P) ∧ ∀ i : Idx P, ∃ f, nodeRead (resetAt P).NODE i = .error f

/-- R230: reset at any time and in any phase leaves every piece of state as R46's table has it, and nothing runs in the
same step. -/
def Obligations.ResetFromAnyState : Prop :=
  ∀ (s : State) (rest : List HostEvent), s.script = .reset :: rest →
    ∃ t, step s = .next t ∧ AtReset t ∧ t.script = rest ∧ t.offer = s.offer ∧ t.statusReads = s.statusReads

/-- R231: with nothing written, the block in IDLE does nothing. -/
def Obligations.IdleDoesNothing : Prop :=
  ∀ s s1 : State, EngineTurn s s1 → s.PHASE = .idle → step s = .next s1

/-- R96: a STATUS read gives CAUSE in bits 3:0, TV in bit 4, BUSY in bit 5 and zero in bits 7:6, and has no side
effect on the block. -/
def Obligations.StatusReadFollowsLayout : Prop :=
  ∀ (s : State) (rest : List HostEvent), s.script = .readStatus :: rest →
    ∃ v : BitVec 8, step s = .next { s with script := rest, statusReads := s.statusReads ++ [v] } ∧
      v.extractLsb' 0 4 = s.CAUSE.code ∧ v.getLsbD 4 = s.TV ∧
      v.getLsbD 5 = decide (s.PHASE ≠ .idle ∧ s.PHASE ≠ .fault) ∧ v.getLsbD 6 = false ∧ v.getLsbD 7 = false

/-- R97, R201: the codes of PHASE and of CAUSE, each a different code. -/
def Obligations.PhaseAndCauseCodes : Prop :=
  ([.idle, .bScan, .bMerge, .rSym, .rBits, .sWalk, .dRun, .fault] : List Phase).map Phase.code =
    [0b000, 0b001, 0b010, 0b011, 0b100, 0b101, 0b110, 0b111] ∧
  ([.noFault, .fmtSymbol, .fmtBitstring, .fmtConflict, .fmtIncomplete, .streamTruncated, .emptyTree, .noTree,
    .badCmd] : List Cause).map Cause.code = [0, 1, 2, 3, 4, 5, 6, 7, 8]

/-- R99: the fields of the packed node record at their bits. -/
def Obligations.PackedRecordFields : Prop :=
  ∀ r : NodeRec, (packNode r).extractLsb' 27 39 = r.W ∧ (packNode r).extractLsb' 19 8 = r.SYM ∧
    (packNode r).getLsbD 18 = r.SV ∧ (packNode r).extractLsb' 9 9 = r.L ∧ (packNode r).extractLsb' 0 9 = r.R

/-! Command acceptance. -/

/-- R85, the whole of it, as a step: outside IDLE nothing happens; in IDLE each word starts its command with its operand
bound, or raises its fault with nothing bound. -/
def Obligations.CommandAcceptance : Prop :=
  ∀ (s : State) (w : BitVec 3) (o : Offer) (rest : List HostEvent), s.script = .writeCmd w o :: rest →
    let s1 : State := { s with script := rest, offer := o }
    (s.PHASE ≠ .idle → step s = .next s1) ∧
    (s.PHASE = .idle → w = 0b001 →
      step s = .next { s1 with
        FREQ := some o.freq, NODE := [], NEXT := 0, ROOT := NIL, TV := false, PQ := [], I := 0, PHASE := .bScan }) ∧
    (s.PHASE = .idle → w = 0b010 →
      step s = .next { s1 with
        IN_TEXT := some o.text, NODE := [(0, { SYM := 0, SV := false, W := 0, L := NIL, R := NIL })], NEXT := 1
        ROOT := NIL, TV := false, SYMACC := 0, NDIG := false, RSYM := 0, CURB := 0, DEPTH := 0, CF := false, NPAIRS := 0
        ASSIGNED := Vector.replicate 256 false, PHASE := .rSym }) ∧
    (s.PHASE = .idle → w = 0b011 → s.TV = false → step s = .next { s1 with CAUSE := .noTree, PHASE := .fault }) ∧
    (s.PHASE = .idle → w = 0b011 → s.TV = true →
      ∃ t, step s = .next t ∧ t = { s1 with STACK := t.STACK, SP := t.SP, LEN := 0, PHASE := .sWalk } ∧
        t.SP = (if s.ROOT = NIL then 0 else 1) ∧
        (s.ROOT ≠ NIL → stackAt t 0 = .ok { n := s.ROOT, d := 0, b := false }) ∧
        ∀ k, s.ROOT = NIL ∨ k ≠ 0 → stackAt t k = stackAt s k) ∧
    (s.PHASE = .idle → w = 0b100 → s.TV = false → step s = .next { s1 with CAUSE := .noTree, PHASE := .fault }) ∧
    (s.PHASE = .idle → w = 0b100 → s.TV = true →
      step s = .next { s1 with IN_BITS := some o.bits, CUR := s.ROOT, PHASE := .dRun }) ∧
    (s.PHASE = .idle → w ∉ [0b001#3, 0b010#3, 0b011#3, 0b100#3] →
      step s = .next { s1 with CAUSE := .badCmd, PHASE := .fault })

/-- R111, R55: BUILD drops the previous tree, empties the queue and starts the scan, whether or not there was a tree. -/
def Obligations.BuildStarts : Prop :=
  ∀ s : State, s.PHASE = .idle →
    exec .build s = .next { s with
      FREQ := some s.offer.freq, NODE := [], NEXT := 0, ROOT := NIL, TV := false, PQ := [], I := 0, PHASE := .bScan }

/-- R131, R132, R55: RESTORE drops the previous tree, makes node 0 the placeholder root and clears its registers. -/
def Obligations.RestoreStarts : Prop :=
  ∀ s : State, s.PHASE = .idle →
    exec .restore s = .next { s with
      IN_TEXT := some s.offer.text, NODE := [(0, { SYM := 0, SV := false, W := 0, L := NIL, R := NIL })], NEXT := 1
      ROOT := NIL, TV := false, SYMACC := 0, NDIG := false, RSYM := 0, CURB := 0, DEPTH := 0, CF := false, NPAIRS := 0
      ASSIGNED := Vector.replicate 256 false, PHASE := .rSym }

/-- R161: SERIALIZE with a tree empties the stack, or puts the root on it at depth 0, and changes nothing else. -/
def Obligations.SerializeStarts : Prop :=
  ∀ s : State, s.PHASE = .idle → s.TV = true →
    ∃ t, exec .serialize s = .next t ∧ t.LEN = 0 ∧ t.PHASE = .sWalk ∧
      t = { s with STACK := t.STACK, SP := t.SP, LEN := t.LEN, PHASE := t.PHASE } ∧
      (s.ROOT = NIL → t.SP = 0 ∧ t.STACK = s.STACK) ∧
      (s.ROOT ≠ NIL → t.SP = 1 ∧ stackAt t 0 = .ok { n := s.ROOT, d := 0, b := false } ∧
        ∀ k, k ≠ 0 → stackAt t k = stackAt s k)

/-- R181: DECODE with a tree sets the cursor to the root. -/
def Obligations.DecodeStarts : Prop :=
  ∀ s : State, s.PHASE = .idle → s.TV = true →
    exec .decode s = .next { s with IN_BITS := some s.offer.bits, CUR := s.ROOT, PHASE := .dRun }

/-- R83: the four reserved command words decode to the reserved instructions; written in IDLE one raises BAD_CMD, and
nothing else changes; outside IDLE nothing changes. -/
def Obligations.ReservedWordsFault : Prop :=
  [0b000, 0b101, 0b110, 0b111].map (decode .cmd) = reservedInstrs.map .ok ∧
  ∀ i ∈ reservedInstrs, ∀ s : State,
    (s.PHASE = .idle → exec i s = .next { s with CAUSE := .badCmd, PHASE := .fault }) ∧
    (s.PHASE ≠ .idle → exec i s = .next s)

/-- R85, R207, C12: SERIALIZE and DECODE with no tree raise NO_TREE, bind nothing, and change only CAUSE and PHASE. -/
def Obligations.NoTreeRefusesBindingNothing : Prop :=
  ∀ i ∈ [Instr.serialize, Instr.decode], ∀ s : State, s.PHASE = .idle → s.TV = false →
    exec i s = .next { s with CAUSE := .noTree, PHASE := .fault }

/-- R85, R73, R234: a command in any phase but IDLE is ignored. -/
def Obligations.CommandIgnoredOutsideIdle : Prop :=
  ∀ (i : Instr) (s : State), i.format = .cmd → s.PHASE ≠ .idle → exec i s = .next s

/-- Frame of the commands (R39, R40). None writes an output or PATH; none but BUILD and RESTORE touches the tree; none but
RESTORE its registers, none but BUILD, DECODE and SERIALIZE its own; and each binds only its own port. -/
def Obligations.CommandFrame : Prop :=
  ∀ (i : Instr) (s t : State), i.format = .cmd → exec i s = .next t →
    t.OUT_TEXT = s.OUT_TEXT ∧ t.OUT_PAIRS = s.OUT_PAIRS ∧ t.OUT_SYMS = s.OUT_SYMS ∧ t.PATH = s.PATH ∧
    t.offer = s.offer ∧ t.script = s.script ∧ t.statusReads = s.statusReads ∧
    (i ≠ .build → i ≠ .restore →
      t.NODE = s.NODE ∧ t.NEXT = s.NEXT ∧ t.ROOT = s.ROOT ∧ t.TV = s.TV) ∧
    (i ≠ .restore →
      t.IN_TEXT = s.IN_TEXT ∧ t.SYMACC = s.SYMACC ∧ t.NDIG = s.NDIG ∧ t.RSYM = s.RSYM ∧ t.CURB = s.CURB ∧
      t.DEPTH = s.DEPTH ∧ t.CF = s.CF ∧ t.ASSIGNED = s.ASSIGNED ∧ t.NPAIRS = s.NPAIRS) ∧
    (i ≠ .build → t.FREQ = s.FREQ ∧ t.PQ = s.PQ ∧ t.I = s.I) ∧
    (i ≠ .decode → t.IN_BITS = s.IN_BITS ∧ t.CUR = s.CUR) ∧
    (i ≠ .serialize → t.STACK = s.STACK ∧ t.SP = s.SP ∧ t.LEN = s.LEN) ∧
    (t.CAUSE = s.CAUSE ∨ t.CAUSE = .noTree ∨ t.CAUSE = .badCmd)

/-! BUILD. -/

/-- R112, R113: a scan step. A positive count makes a leaf with the next index and queues it; any other count makes
nothing. The scan index moves on, and after the last symbol the phase is B_MERGE. -/
def Obligations.BuildScanStep : Prop :=
  ∀ (s s1 : State) (f : FreqTable) (c : Count), EngineTurn s s1 → s.PHASE = .bScan → s.FREQ = some f →
    f.toList[s.I.toNat]? = some c → s.NEXT.toNat < hw.NODE_CAP → s.PQ.length < hw.PQ_CAP →
    (∀ i ∈ s.PQ, i.toNat < s.NEXT.toNat) →
    ∃ t, step s = .next t ∧ t.I.toNat = s.I.toNat + 1 ∧
      t.PHASE = (if s.I.toNat + 1 = hw.N_SYM then .bMerge else .bScan) ∧
      t = { s1 with NODE := t.NODE, NEXT := t.NEXT, PQ := t.PQ, I := t.I, PHASE := t.PHASE } ∧
      (c.toInt ≤ 0 → t.NODE = s.NODE ∧ t.NEXT = s.NEXT ∧ t.PQ = s.PQ) ∧
      (0 < c.toInt →
        t.NEXT.toNat = s.NEXT.toNat + 1 ∧
        (∃ r, nodeRead t.NODE (s.NEXT.setWidth 9) = .ok r ∧ r.SYM.toNat = s.I.toNat ∧ r.SV = true ∧
          (r.W.toNat : Int) = c.toInt ∧ r.L = NIL ∧ r.R = NIL) ∧
        (∀ j, j ≠ s.NEXT.setWidth 9 → nodeRead t.NODE j = nodeRead s.NODE j) ∧
        (∀ j, j ∈ t.PQ ↔ j ∈ s.PQ ∨ j = s.NEXT.setWidth 9) ∧ t.PQ.length = s.PQ.length + 1)

/-- R57, for any parameters of R8: extract_min takes the member with the least key, weight first and then index, and leaves the others. -/
def Obligations.ExtractMinTakesLeastKey : Prop :=
  ∀ (P : Params) (m : Memory P) (q : List (Idx P)), q ≠ [] → q.Nodup → (∀ i ∈ q, ∃ r, nodeRead m i = .ok r) →
    ∃ i r, extractMin m q = .ok (i, q.erase i) ∧ i ∈ q ∧ nodeRead m i = .ok r ∧
      ∀ j r', j ∈ q → j ≠ i → nodeRead m j = .ok r' → r.W < r'.W ∨ (r.W = r'.W ∧ i < j)

/-- R114, R115: a merge step. The two members with the least keys become the left and the right child of a new node
whose weight is their sum, and the queue, one shorter, holds the new node in their place. -/
def Obligations.BuildMergeStep : Prop :=
  ∀ s s1 : State, EngineTurn s s1 → s.PHASE = .bMerge → 2 ≤ s.PQ.length → s.PQ.length ≤ hw.PQ_CAP → s.PQ.Nodup →
    (∀ i ∈ s.PQ, i.toNat < s.NEXT.toNat ∧ ∃ r, nodeRead s.NODE i = .ok r) → s.NEXT.toNat < hw.NODE_CAP →
    ∃ t a b ra rb, step s = .next t ∧ a ∈ s.PQ ∧ b ∈ s.PQ ∧ a ≠ b ∧ nodeRead s.NODE a = .ok ra ∧
      nodeRead s.NODE b = .ok rb ∧
      (∀ j r, j ∈ s.PQ → j ≠ a → nodeRead s.NODE j = .ok r → ra.W < r.W ∨ (ra.W = r.W ∧ a < j)) ∧
      (∀ j r, j ∈ s.PQ → j ≠ a → j ≠ b → nodeRead s.NODE j = .ok r → rb.W < r.W ∨ (rb.W = r.W ∧ b < j)) ∧
      nodeRead t.NODE (s.NEXT.setWidth 9) = .ok { SYM := 0, SV := false, W := ra.W + rb.W, L := a, R := b } ∧
      (∀ j, j ≠ s.NEXT.setWidth 9 → nodeRead t.NODE j = nodeRead s.NODE j) ∧ t.NEXT.toNat = s.NEXT.toNat + 1 ∧
      (∀ j, j ∈ t.PQ ↔ (j ∈ s.PQ ∧ j ≠ a ∧ j ≠ b) ∨ j = s.NEXT.setWidth 9) ∧ t.PQ.length + 1 = s.PQ.length ∧
      t = { s1 with NODE := t.NODE, NEXT := t.NEXT, PQ := t.PQ }

/-- R116: with at most one member left, that member or NIL is the root, the queue is empty and the command completes. -/
def Obligations.BuildFinishStep : Prop :=
  ∀ s s1 : State, EngineTurn s s1 → s.PHASE = .bMerge →
    (s.PQ = [] → step s = .next { s1 with ROOT := NIL, PQ := [], TV := true, PHASE := .idle }) ∧
    (∀ i, s.PQ = [i] → step s = .next { s1 with ROOT := i, PQ := [], TV := true, PHASE := .idle })

/-- R121, R117, R119: a BUILD left to run computes the merge of the forest of positive counts, with weights that are
exact sums, in exactly the steps R119 counts, and uses exactly the records R117 counts. The spec marks the three rules
as derived, from R112 to R116. -/
def Obligations.BuildComputesForestMerge : Prop :=
  ∀ s : State, s.PHASE = .idle → s.script = [] →
    let k := (positives s.offer.freq).length
    ∃ t0 t, exec .build s = .next t0 ∧ RunsTo (hw.N_SYM + (k - 1) + 1) t0 t ∧ t.PHASE = .idle ∧ t.TV = true ∧
      t.CAUSE = s.CAUSE ∧ treeOf t.NODE (buildTree s.offer.freq) t.ROOT ∧
      t.NEXT.toNat = (if k = 0 then 0 else 2 * k - 1)

/-- R118, which the spec derives from R112, R114 and R116: the leaves of the tree BUILD makes carry exactly the symbols
with a positive count, each once, and their codes form a prefix code, for any parameters of R8. -/
def Obligations.BuildCodesArePrefixFree : Prop :=
  ∀ (P : Params) (f : FreqTable P), P.ok →
    ((serTree (buildTree f)).map (fun p => p.1.toNat)).Perm (positives f) ∧
    isPrefixCode ((serTree (buildTree f)).map (fun q => (q.1.toNat, q.2)))

/-- R122, a property the spec asks to prove of R112 to R116, for any parameters of R8: the tree BUILD makes has the least
total weighted code length, the sum over its leaves of count times depth, among all binary prefix codes for the positive
counts, full trees or not. -/
def Obligations.BuildIsOptimal : Prop :=
  ∀ (P : Params) (f : FreqTable P) (code : List (Nat × List Bool)), P.ok →
    (code.map Prod.fst).Perm (positives f) → isPrefixCode code →
    ((buildTree f).map (fun t => costOf f t 0)).getD 0 ≤ codeCost f code

/-! RESTORE. -/

/-- R134: a digit on a symbol line. The accumulator becomes ten times itself plus the digit; a value that is no member
of the alphabet raises FMT_SYMBOL. Nothing else changes. -/
def Obligations.DigitAccumulates : Prop :=
  ∀ p ∈ digitInstrs, ∀ (s : State) (c : Byte) (cs : List Byte), s.PHASE = .rSym → s.IN_TEXT = some (c :: cs) →
    s.SYMACC.toNat < hw.N_SYM →
    ∃ t, exec p.1 s = .next t ∧ t.SYMACC.toNat = s.SYMACC.toNat * 10 + p.2 ∧ t.NDIG = true ∧ t.IN_TEXT = some cs ∧
      (s.SYMACC.toNat * 10 + p.2 < hw.N_SYM → t.CAUSE = s.CAUSE ∧ t.PHASE = .rSym) ∧
      (hw.N_SYM ≤ s.SYMACC.toNat * 10 + p.2 → t.CAUSE = .fmtSymbol ∧ t.PHASE = .fault) ∧
      t = { s with SYMACC := t.SYMACC, NDIG := t.NDIG, IN_TEXT := t.IN_TEXT, CAUSE := t.CAUSE, PHASE := t.PHASE }

/-- R135, R139: LF on a symbol line. An empty line, then a repeated symbol, raises FMT_SYMBOL; otherwise the insertion
starts at the root. -/
def Obligations.SymbolLineEnds : Prop :=
  ∀ (s : State) (c : Byte) (cs : List Byte), s.PHASE = .rSym → s.IN_TEXT = some (c :: cs) →
    (s.NDIG = false → exec .symLf s = .next { s with IN_TEXT := some cs, CAUSE := .fmtSymbol, PHASE := .fault }) ∧
    (s.NDIG = true → s.ASSIGNED.toList[s.SYMACC.toNat]? = some true →
      exec .symLf s = .next { s with IN_TEXT := some cs, CAUSE := .fmtSymbol, PHASE := .fault }) ∧
    (s.NDIG = true → s.ASSIGNED.toList[s.SYMACC.toNat]? = some false →
      exec .symLf s = .next { s with
        IN_TEXT := some cs, RSYM := BitVec.ofNat 8 s.SYMACC.toNat, CURB := 0, DEPTH := 0, PHASE := .rBits })

/-- R136, R144: a character outside its line's alphabet raises FMT_SYMBOL on a symbol line and FMT_BITSTRING on a
bit-string line, whatever it is, and has been consumed. -/
def Obligations.OtherCharactersFault : Prop :=
  ∀ (d : Byte) (s : State) (c : Byte) (cs : List Byte), s.IN_TEXT = some (c :: cs) →
    (s.PHASE = .rSym →
      exec (.symOther d) s = .next { s with IN_TEXT := some cs, CAUSE := .fmtSymbol, PHASE := .fault }) ∧
    (s.PHASE = .rBits →
      exec (.bitsOther d) s = .next { s with IN_TEXT := some cs, CAUSE := .fmtBitstring, PHASE := .fault })

/-- R140, R141, R142: a bit on a bit-string line. The length test comes first; stepping out of an assigned node sets
CF; an absent child is made and linked if there is room; the cursor moves and the depth grows. -/
def Obligations.BitCharacterDescends : Prop :=
  ∀ p ∈ bitCharInstrs, ∀ (s : State) (c : Byte) (cs : List Byte) (r : NodeRec), s.PHASE = .rBits →
    s.IN_TEXT = some (c :: cs) → nodeRead s.NODE s.CURB = .ok r →
    let child := if p.2 then r.R else r.L
    (s.DEPTH.toNat = hw.MAX_CODE_LEN →
      exec p.1 s = .next { s with IN_TEXT := some cs, CAUSE := .fmtBitstring, PHASE := .fault }) ∧
    (s.DEPTH.toNat ≠ hw.MAX_CODE_LEN → child ≠ NIL →
      exec p.1 s = .next { s with
        IN_TEXT := some cs, CF := s.CF || r.SV, CURB := child, DEPTH := s.DEPTH + 1 }) ∧
    (s.DEPTH.toNat ≠ hw.MAX_CODE_LEN → child = NIL → s.NEXT.toNat = hw.NODE_CAP →
      exec p.1 s = .next { s with
        IN_TEXT := some cs, CF := s.CF || r.SV, CAUSE := .fmtBitstring, PHASE := .fault }) ∧
    (s.DEPTH.toNat ≠ hw.MAX_CODE_LEN → child = NIL → s.NEXT.toNat < hw.NODE_CAP →
      s.CURB.toNat ≠ s.NEXT.toNat →
      ∃ t, exec p.1 s = .next t ∧ t.CURB.toNat = s.NEXT.toNat ∧ t.NEXT.toNat = s.NEXT.toNat + 1 ∧
        t.DEPTH.toNat = s.DEPTH.toNat + 1 ∧ t.CF = (s.CF || r.SV) ∧
        nodeRead t.NODE t.CURB = .ok { SYM := 0, SV := false, W := 0, L := NIL, R := NIL } ∧
        nodeRead t.NODE s.CURB = .ok (if p.2 then { r with R := t.CURB } else { r with L := t.CURB }) ∧
        (∀ j, j ≠ s.CURB → j ≠ t.CURB → nodeRead t.NODE j = nodeRead s.NODE j) ∧
        t = { s with
          IN_TEXT := some cs, NODE := t.NODE, NEXT := t.NEXT, CF := t.CF, CURB := t.CURB, DEPTH := t.DEPTH })

/-- R143: LF on a bit-string line. The node reached becomes the leaf of the symbol; a node assigned before or with a
child sets CF. -/
def Obligations.BitLineEnds : Prop :=
  ∀ (s : State) (c : Byte) (cs : List Byte) (r : NodeRec), s.PHASE = .rBits → s.IN_TEXT = some (c :: cs) →
    nodeRead s.NODE s.CURB = .ok r →
    ∃ t, exec .bitsLf s = .next t ∧ t.CF = (s.CF || r.SV || !(r.L == NIL && r.R == NIL)) ∧
      nodeRead t.NODE s.CURB = .ok { r with SV := true, SYM := s.RSYM } ∧
      (∀ j, j ≠ s.CURB → nodeRead t.NODE j = nodeRead s.NODE j) ∧
      t.ASSIGNED.toList[s.RSYM.toNat]? = some true ∧
      (∀ k, k ≠ s.RSYM.toNat → t.ASSIGNED.toList[k]? = s.ASSIGNED.toList[k]?) ∧
      t = { s with
        IN_TEXT := some cs, NODE := t.NODE, CF := t.CF, ASSIGNED := t.ASSIGNED, NPAIRS := s.NPAIRS + 1, SYMACC := 0
        NDIG := false, PHASE := .rSym }

/-- R137, R145: the input ends inside a line. Pending digits raise FMT_SYMBOL; a missing or unfinished bit-string line
raises FMT_BITSTRING. -/
def Obligations.InputEndsInsideLine : Prop :=
  ∀ s s1 : State, EngineTurn s s1 → s.IN_TEXT = some [] →
    (s.PHASE = .rSym → s.NDIG = true → step s = .next { s1 with CAUSE := .fmtSymbol, PHASE := .fault }) ∧
    (s.PHASE = .rBits → step s = .next { s1 with CAUSE := .fmtBitstring, PHASE := .fault })

/-- R148, R150: the input ends at a record boundary. No record gives the empty tree; then the conflict test; then the
completeness test over every record below NEXT; else node 0 is the root. -/
def Obligations.TableEnds : Prop :=
  ∀ s s1 : State, EngineTurn s s1 → s.IN_TEXT = some [] → s.PHASE = .rSym → s.NDIG = false →
    (s.NPAIRS = 0 → step s = .next { s1 with ROOT := NIL, TV := true, PHASE := .idle }) ∧
    (s.NPAIRS ≠ 0 → s.CF = true → step s = .next { s1 with CAUSE := .fmtConflict, PHASE := .fault }) ∧
    (s.NPAIRS ≠ 0 → s.CF = false → (∀ i, i < s.NEXT.toNat → ∃ r, nodeRead s.NODE (BitVec.ofNat 9 i) = .ok r) →
      ((∃ i r, i < s.NEXT.toNat ∧ nodeRead s.NODE (BitVec.ofNat 9 i) = .ok r ∧
          ((r.L = NIL ∧ r.R ≠ NIL) ∨ (r.L ≠ NIL ∧ r.R = NIL))) →
        step s = .next { s1 with CAUSE := .fmtIncomplete, PHASE := .fault }) ∧
      ((∀ i r, i < s.NEXT.toNat → nodeRead s.NODE (BitVec.ofNat 9 i) = .ok r → (r.L = NIL ↔ r.R = NIL)) →
        step s = .next { s1 with ROOT := 0, TV := true, PHASE := .idle }))

/-- Frame of the characters (R39, R133): a character step writes RESTORE's own registers, the store, CAUSE and PHASE, and
nothing else; a symbol line writes no record; a bit writes only the cursor's record and the next new one; the LF of a
bit-string line only the cursor's. -/
def Obligations.CharacterFrame : Prop :=
  ∀ (i : Instr) (s t : State), (i.format = .symLine ∨ i.format = .bitsLine) → exec i s = .next t →
    t = { s with
      NODE := t.NODE, NEXT := t.NEXT, SYMACC := t.SYMACC, NDIG := t.NDIG, RSYM := t.RSYM, CURB := t.CURB
      DEPTH := t.DEPTH, CF := t.CF, ASSIGNED := t.ASSIGNED, NPAIRS := t.NPAIRS, IN_TEXT := t.IN_TEXT
      PHASE := t.PHASE, CAUSE := t.CAUSE } ∧
    (i.format = .symLine → t.NODE = s.NODE ∧ t.NEXT = s.NEXT ∧ t.CF = s.CF ∧ t.ASSIGNED = s.ASSIGNED ∧
      t.NPAIRS = s.NPAIRS) ∧
    (i.format = .bitsLine → t.RSYM = s.RSYM ∧
      ∀ j : Idx, j ≠ s.CURB → j.toNat ≠ s.NEXT.toNat → nodeRead t.NODE j = nodeRead s.NODE j) ∧
    (i = .bitsLf → t.NEXT = s.NEXT ∧ ∀ j : Idx, j ≠ s.CURB → nodeRead t.NODE j = nodeRead s.NODE j)

/-- R154: a RESTORE that faults leaves no tree: TV is 0 and ROOT is NIL. -/
def Obligations.FaultedRestoreLeavesNoTree : Prop :=
  ∀ s t : State, FlagInv s → InRestore s → NoReset s → step s = .next t → t.PHASE = .fault →
    t.TV = false ∧ t.ROOT = NIL

/-- R172, R152, R156: a table text that SERIALIZE writes for a tree with distinct symbols is restored to that tree, the
empty tree included, in exactly one step per character and one for the end. The spec derives the three rules from its
step rules. -/
def Obligations.RestoreInvertsSerialize : Prop :=
  ∀ (s : State) (a : AnyTree), s.PHASE = .idle → s.script = [] → s.offer.text = textOf (serTree a) →
    ((serTree a).map Prod.fst).Nodup →
    ∃ t0 t, exec .restore s = .next t0 ∧ RunsTo (s.offer.text.length + 1) t0 t ∧ t.PHASE = .idle ∧ t.TV = true ∧
      t.CAUSE = s.CAUSE ∧ treeOf t.NODE a t.ROOT

/-! SERIALIZE. -/

/-- R162, R163: a walk step at a leaf pops it, writes the link that led to it, and emits its record with the code held
by the path. -/
def Obligations.WalkEmitsLeaf : Prop :=
  ∀ (s s1 : State) (e : StackEntry) (r : NodeRec), EngineTurn s s1 → s.PHASE = .sWalk → s.SP ≠ 0 →
    stackAt s (s.SP.toNat - 1) = .ok e → nodeRead s.NODE e.n = .ok r → r.L = NIL → r.R = NIL →
    let path := if e.d = 0 then s.PATH else s.PATH.setIfInBounds (e.d.toNat - 1) e.b
    let code := path.toList.take e.d.toNat
    step s = .next { s1 with
      SP := s.SP - 1, LEN := e.d, PATH := path
      OUT_TEXT := s.OUT_TEXT ++ (dec r.SYM ++ [0x0A#8] ++ code.map (fun b => if b then 0x31#8 else 0x30#8) ++ [0x0A#8])
      OUT_PAIRS := s.OUT_PAIRS ++ [(r.SYM, code)] }

/-- R162, R164: a walk step at a node with children pops it and pushes the right child, then the left, one level deeper,
with the bits 1 and 0; internal nodes write no record. -/
def Obligations.WalkPushesChildren : Prop :=
  ∀ (s s1 : State) (e : StackEntry) (r : NodeRec), EngineTurn s s1 → s.PHASE = .sWalk → s.SP ≠ 0 →
    s.SP.toNat < hw.STACK_CAP → stackAt s (s.SP.toNat - 1) = .ok e → nodeRead s.NODE e.n = .ok r →
    ¬ (r.L = NIL ∧ r.R = NIL) → e.d.toNat < hw.MAX_CODE_LEN →
    ∃ t, step s = .next t ∧ t.SP.toNat = s.SP.toNat + 1 ∧ t.LEN = e.d ∧
      stackAt t (s.SP.toNat - 1) = .ok { n := r.R, d := e.d + 1, b := true } ∧
      stackAt t s.SP.toNat = .ok { n := r.L, d := e.d + 1, b := false } ∧
      (∀ k, k ≠ s.SP.toNat - 1 → k ≠ s.SP.toNat → stackAt t k = stackAt s k) ∧
      t.PATH = (if e.d = 0 then s.PATH else s.PATH.setIfInBounds (e.d.toNat - 1) e.b) ∧
      t = { s1 with STACK := t.STACK, SP := t.SP, LEN := t.LEN, PATH := t.PATH }

/-- R165: with an empty stack the traversal is complete and nothing but PHASE changes. -/
def Obligations.WalkEndsOnEmptyStack : Prop :=
  ∀ s s1 : State, EngineTurn s s1 → s.PHASE = .sWalk → s.SP = 0 → step s = .next { s1 with PHASE := .idle }

/-- R163: the decimal spelling of a symbol, by the rule's own recursion, for any parameters of R8. -/
def Obligations.SymbolSpelling : Prop :=
  ∀ (P : Params) (x : Sym P), dec x = (if x.toNat < 10 then [BitVec.ofNat 8 (0x30 + x.toNat)]
    else dec (BitVec.ofNat P.SYM_BITS (x.toNat / 10) : Sym P) ++ [BitVec.ofNat 8 (0x30 + x.toNat % 10)])

/-- R167, R166, R170: a SERIALIZE left to run appends exactly the records of the tree, in the order of R166, and their
text, and leaves the tree as it was, in one step per node and one for the empty stack. The spec derives R167 and R170
from R161 to R164. -/
def Obligations.SerializeComputesSer : Prop :=
  ∀ (s : State) (a : AnyTree), s.PHASE = .idle → s.script = [] → s.TV = true → treeOf s.NODE a s.ROOT →
    (∀ t, a = some t → depthOf t ≤ hw.MAX_CODE_LEN) →
    ∃ t0 t, exec .serialize s = .next t0 ∧ RunsTo ((a.map sizeOfTree).getD 0 + 1) t0 t ∧ t.PHASE = .idle ∧
      t.OUT_PAIRS = s.OUT_PAIRS ++ serTree a ∧ t.OUT_TEXT = s.OUT_TEXT ++ textOf (serTree a) ∧
      t = { s with
        STACK := t.STACK, SP := t.SP, PATH := t.PATH, LEN := t.LEN, OUT_TEXT := t.OUT_TEXT, OUT_PAIRS := t.OUT_PAIRS }

/-! DECODE. -/

/-- R184: a bit on a tree with two leaves or more. The cursor's child on the bit's side is looked at; a leaf emits its
symbol and sends the cursor back to the root, another node becomes the cursor. -/
def Obligations.BitFollowsTree : Prop :=
  ∀ p ∈ bitInstrs, ∀ (s : State) (b : Bool) (bs : List Bool) (root cur r : NodeRec), s.PHASE = .dRun →
    s.IN_BITS = some (b :: bs) → nodeRead s.NODE s.ROOT = .ok root → ¬ (root.L = NIL ∧ root.R = NIL) →
    nodeRead s.NODE s.CUR = .ok cur → nodeRead s.NODE (if p.2 then cur.R else cur.L) = .ok r →
    (r.L = NIL ∧ r.R = NIL →
      exec p.1 s = .next { s with IN_BITS := some bs, OUT_SYMS := s.OUT_SYMS ++ [r.SYM], CUR := s.ROOT }) ∧
    (¬ (r.L = NIL ∧ r.R = NIL) →
      exec p.1 s = .next { s with IN_BITS := some bs, CUR := if p.2 then cur.R else cur.L })

/-- R185: on a single-leaf tree both bits emit the sole symbol and the cursor stays. -/
def Obligations.BitOnSingleLeaf : Prop :=
  ∀ p ∈ bitInstrs, ∀ (s : State) (b : Bool) (bs : List Bool) (root : NodeRec), s.PHASE = .dRun →
    s.IN_BITS = some (b :: bs) → nodeRead s.NODE s.ROOT = .ok root → root.L = NIL → root.R = NIL →
    exec p.1 s = .next { s with IN_BITS := some bs, OUT_SYMS := s.OUT_SYMS ++ [root.SYM] }

/-- R186: on the empty tree a bit raises EMPTY_TREE and is not read. -/
def Obligations.BitOnEmptyTree : Prop :=
  ∀ p ∈ bitInstrs, ∀ (s : State) (b : Bool) (bs : List Bool), s.PHASE = .dRun → s.IN_BITS = some (b :: bs) →
    s.ROOT = NIL → exec p.1 s = .next { s with CAUSE := .emptyTree, PHASE := .fault }

/-- R183: when the bits are exhausted, the command completes at the root and is truncated anywhere else. -/
def Obligations.BitsExhausted : Prop :=
  ∀ s s1 : State, EngineTurn s s1 → s.PHASE = .dRun → s.IN_BITS = some [] →
    (s.CUR = s.ROOT → step s = .next { s1 with PHASE := .idle }) ∧
    (s.CUR ≠ s.ROOT → step s = .next { s1 with CAUSE := .streamTruncated, PHASE := .fault })

/-- Frame of the decoder bits (R191): a bit writes CUR, the input and output of DECODE, CAUSE and PHASE, and nothing
else: every record reads as before. -/
def Obligations.DecoderOnlyReadsTree : Prop :=
  ∀ p ∈ bitInstrs, ∀ s t : State, exec p.1 s = .next t →
    t = { s with
      CUR := t.CUR, IN_BITS := t.IN_BITS, OUT_SYMS := t.OUT_SYMS, CAUSE := t.CAUSE, PHASE := t.PHASE }

/-- R188, R189, R190: a DECODE left to run appends the symbols `decode` gives for the tree and the bits and ends as
`decode` says, in IDLE or in FAULT with that cause, within one step per bit and one more. The spec derives the three
rules from R181 to R186. -/
def Obligations.DecodeComputesDecode : Prop :=
  ∀ (s : State) (a : AnyTree), s.PHASE = .idle → s.script = [] → s.TV = true → treeOf s.NODE a s.ROOT →
    let r := decodeTree a s.offer.bits
    ∃ t0 t n, exec .decode s = .next t0 ∧ n ≤ s.offer.bits.length + 1 ∧ RunsTo n t0 t ∧
      t.OUT_SYMS = s.OUT_SYMS ++ r.1 ∧
      (r.2 = .noFault → t.PHASE = .idle ∧ t.CAUSE = s.CAUSE) ∧
      (r.2 ≠ .noFault → t.PHASE = .fault ∧ t.CAUSE = r.2) ∧
      t = { s with
        CUR := t.CUR, IN_BITS := t.IN_BITS, OUT_SYMS := t.OUT_SYMS, CAUSE := t.CAUSE, PHASE := t.PHASE }

/-! The whole machine. -/

/-- R208, R73: in FAULT, whatever the host does but reset, no state of the block changes. -/
def Obligations.FaultIsFinal : Prop :=
  ∀ s : State, s.PHASE = .fault → NoReset s → ∃ t, step s = .next t ∧ SameBlock s t

/-- R25, and R209 which the spec derives from R206 and R208: a recorded cause never changes until reset. -/
def Obligations.CauseIsRecordedOnce : Prop :=
  ∀ s t : State, FlagInv s → s.CAUSE ≠ .noFault → NoReset s → step s = .next t → t.CAUSE = s.CAUSE

/-- R101, which the spec derives from its step rules: every change of PHASE by a step, but reset's, is a row of the
table. -/
def Obligations.PhaseFollowsTable : Prop :=
  ∀ s t : State, NoReset s → step s = .next t → phaseRow s.PHASE t.PHASE = true

/-- R70, and R240 which the spec derives from R62 and R64: no step but reset takes back what has been written: the
outputs only grow. -/
def Obligations.OutputsOnlyGrow : Prop :=
  ∀ s t : State, NoReset s → step s = .next t →
    s.OUT_TEXT <+: t.OUT_TEXT ∧ s.OUT_PAIRS <+: t.OUT_PAIRS ∧ s.OUT_SYMS <+: t.OUT_SYMS

/-- R68, R23, R36: the tree is immutable outside BUILD and RESTORE: a step that neither belongs to one nor starts one,
and is not reset, leaves the store, NEXT, ROOT and TV as they were. -/
def Obligations.TreeChangesOnlyUnderConstruction : Prop :=
  ∀ s t : State, NoReset s → ¬ InBuild s → ¬ InRestore s → ¬ InBuild t → ¬ InRestore t → step s = .next t →
    t.NODE = s.NODE ∧ t.NEXT = s.NEXT ∧ t.ROOT = s.ROOT ∧ t.TV = s.TV

/-- R22, R27, R38, R40, and R36 which the spec derives from its step rules: every step keeps the store exact. The written
records are those below NEXT; every index in use (child fields, ROOT, the queue, CURB in a RESTORE, the stack's entries,
CUR in a DECODE) leads into them or is NIL where the spec allows it; the queue and the stack keep their form and their
capacity; symbols are members of the alphabet. -/
def Obligations.StepKeepsStoreInv : Prop :=
  ∀ s t : State, StoreInv s → step s = .next t → StoreInv t

/-- R23, R25, R206: every step keeps the flags and the phase in agreement. -/
def Obligations.StepKeepsFlagInv : Prop :=
  ∀ s t : State, FlagInv s → step s = .next t → FlagInv t

/-- R33, R151 and R187, which the spec derives from its step rules: every step keeps the shape of the records; under BUILD
and in a finished tree that is not empty every record has two children and no symbol or none and a symbol, and the cursor
of a DECODE is NIL on the empty tree, the root on a single leaf, and else a node with children reachable from the root. -/
def Obligations.StepKeepsShapeInv : Prop :=
  ∀ s t : State, ShapeInv s → step s = .next t → ShapeInv t

/-- R35, which the spec derives from R54: every step keeps ownership. -/
def Obligations.StepKeepsOwnership : Prop :=
  ∀ s t : State, OwnInv s → step s = .next t → OwnInv t

/-- The invariants hold at reset, whatever the host is going to do. -/
def Obligations.ResetMeetsInvariants : Prop :=
  ∀ h : List HostEvent, let s : State := { State.reset with script := h }
    StoreInv s ∧ FlagInv s ∧ ShapeInv s ∧ OwnInv s

/-- R13, and R33 which the spec derives: with the invariants, TV says that the state holds a tree: `tree_of` is
defined. -/
def Obligations.ValidTreeIsATree : Prop :=
  ∀ s : State, ShapeInv s → OwnInv s → s.TV = true → ∃ a : AnyTree, treeOf s.NODE a s.ROOT

/-- R187, which the spec derives: with the invariants, a DECODE never reads NIL or an unwritten record: a bit always
has a next state. -/
def Obligations.DecodeNeverStops : Prop :=
  ∀ s s1 : State, ShapeInv s → EngineTurn s s1 → s.PHASE = .dRun → s.IN_BITS ≠ none → ∃ t, step s = .next t

/-- R9, R36, R119 and R170, which the spec derives: from reset, whatever the host does and for however many steps, no
step of the model stops: no precondition of an operation fails, no record is read before it is written, no bound is
exceeded. -/
def Obligations.NoRunStops : Prop :=
  ∀ (h : List HostEvent) (k : Nat), ∃ t, RunsTo k { State.reset with script := h } t
end

