-- ==== Sys2Proof/Laws/AnyParams.lean ====
section
/-! SUPPORT. The parameters of R8: this hardware's values meet the constraints and are what R8's constraints give for an
alphabet of 256 and counts of 32 bits, and the machine of Dispatch.lean and Step.lean is the machine for any parameters at
these values. -/

namespace Sys2Proof.Machine

/-- This hardware meets R8's constraints. -/
theorem hw_ok : hw.ok := by decide

/-- Every other parameter of this hardware follows from the alphabet size and the count width (R8). -/
theorem hw_eq_of : hw = Params.of 256 32 := by decide

/-- Parameters that meet R8's constraints are given by the alphabet size and the count width. -/
theorem params_ok_eq {P : Params} (h : P.ok) : P = Params.of P.N_SYM P.COUNT_BITS := by
  obtain ⟨-, h1, -, h2, h3, h4, -, h5, h6, h7⟩ := h
  cases P
  simp only [Params.of] at h1 h2 h3 h4 h5 h6 h7 ⊢
  subst h1 h3 h5 h6 h7
  simp_all

theorem pow_ceilLog2 (n : Nat) : n ≤ 2 ^ ceilLog2 n := by
  unfold ceilLog2
  split
  · simpa
  · have := Nat.lt_log2_self (n := n - 1)
    omega

/-- R8's constraints make the alphabet fit a symbol and the store's indices stay below `NIL`. -/
theorem params_of_ok {n c : Nat} (hn : 1 ≤ n) (hc : 2 ≤ c) : (Params.of n c).ok := by
  refine ⟨hn, rfl, hc, rfl, rfl, rfl, ?_, rfl, rfl, rfl⟩
  have h1 := pow_ceilLog2 n
  have h2 : 2 ^ ceilLog2 n ≤ 2 ^ max 1 (ceilLog2 n) := Nat.pow_le_pow_right (by decide) (Nat.le_max_right ..)
  simp only [Params.of, Nat.pow_succ]
  omega

theorem n_sym_le {P : Params} (h : P.ok) : P.N_SYM ≤ 2 ^ P.SYM_BITS := by
  obtain ⟨-, h1, -⟩ := h
  have h2 := pow_ceilLog2 P.N_SYM
  have h3 : 2 ^ ceilLog2 P.N_SYM ≤ 2 ^ P.SYM_BITS := Nat.pow_le_pow_right (by decide) (h1 ▸ Nat.le_max_right ..)
  omega

/-- `exec` is `execAt` at this hardware's parameters. -/
theorem exec_eq_execAt (i : Instr) (s : State) : exec i s = execAt i s := by cases i <;> rfl

/-- `step` is `stepAt` at this hardware's parameters. -/
theorem step_eq_stepAt (s : State) : step s = stepAt s := by
  rcases h : fetch s with ⟨_ | _, s1⟩ <;> simp only [step, stepAt, h, exec_eq_execAt]

/-- The host's machine is the machine at this hardware's parameters. -/
theorem core_eq_machineAt : Sys2Proof.core = machineAt hw := by
  have : step = stepAt (P := hw) := funext step_eq_stepAt
  simp only [Sys2Proof.core, machineAt, this, State.reset]

/-! Each parameter of this hardware as a number, for goals that name it. -/

theorem hw_N_SYM : hw.N_SYM = 256 := rfl
theorem hw_SYM_BITS : hw.SYM_BITS = 8 := rfl
theorem hw_COUNT_BITS : hw.COUNT_BITS = 32 := rfl
theorem hw_WEIGHT_BITS : hw.WEIGHT_BITS = 39 := rfl
theorem hw_NODE_CAP : hw.NODE_CAP = 511 := rfl
theorem hw_IDX_BITS : hw.IDX_BITS = 9 := rfl
theorem hw_MAX_CODE_LEN : hw.MAX_CODE_LEN = 255 := rfl
theorem hw_PQ_CAP : hw.PQ_CAP = 256 := rfl
theorem hw_STACK_CAP : hw.STACK_CAP = 256 := rfl

end Sys2Proof.Machine
end

