-- ==== Sys2Proof/Laws/Cells.lean ====
section
/-! SUPPORT. The laws of cells: read after write, the canonical form kept, the keys after a write; and what they give for
the node store (R36, R54, R142, R143) and for the stack (R40). -/

namespace Sys2Proof.Machine

variable {P : Params}

section cells
variable {α : Type}

@[simp] theorem cellGet_nil (i : Nat) : cellGet ([] : List (Nat × α)) i = none := rfl

/-- Read after write at the same key. -/
@[simp] theorem cellGet_cellPut_same (m : List (Nat × α)) (i : Nat) (v : α) : cellGet (cellPut m i v) i = some v := by
  induction m with
  | nil => simp [cellPut, cellGet]
  | cons c m ih =>
    obtain ⟨k, x⟩ := c
    simp only [cellPut]
    split
    · simp [cellGet]
    · split
      · simp [cellGet]
      · rename_i h1 h2
        simp [cellGet, ih, Ne.symm h2]

/-- A write leaves every other key alone. -/
theorem cellGet_cellPut_ne (m : List (Nat × α)) {i j : Nat} (v : α) (h : j ≠ i) :
    cellGet (cellPut m i v) j = cellGet m j := by
  induction m with
  | nil => simp [cellPut, cellGet, Ne.symm h]
  | cons c m ih =>
    obtain ⟨k, x⟩ := c
    simp only [cellPut]
    split
    · simp [cellGet, Ne.symm h]
    · split
      · rename_i h1 h2
        subst h2
        simp [cellGet, Ne.symm h]
      · simp [cellGet, ih]

/-- A listed cell has its key in the list of keys. -/
theorem cellGet_mem {m : List (Nat × α)} {i : Nat} {v : α} (h : cellGet m i = some v) : (i, v) ∈ m := by
  induction m with
  | nil => simp at h
  | cons c m ih =>
    obtain ⟨k, x⟩ := c
    simp only [cellGet] at h
    split at h
    · rename_i hk
      subst hk
      simp_all
    · exact List.mem_cons_of_mem _ (ih h)

/-- A key of the list can be read. -/
theorem cellGet_of_key {m : List (Nat × α)} {i : Nat} (h : i ∈ m.map Prod.fst) : ∃ v, cellGet m i = some v := by
  induction m with
  | nil => simp at h
  | cons c m ih =>
    obtain ⟨k, x⟩ := c
    by_cases hk : k = i
    · exact ⟨x, by simp [cellGet, hk]⟩
    · have hi : i ∈ m.map Prod.fst := by
        simp only [List.map_cons, List.mem_cons] at h
        exact h.resolve_left (fun e => hk e.symm)
      obtain ⟨v, hv⟩ := ih hi
      exact ⟨v, by simp [cellGet, hk, hv]⟩

theorem cellsFrom_mono {lo lo' : Nat} {m : List (Nat × α)} (hl : lo' ≤ lo) (h : cellsFrom lo m = true) :
    cellsFrom lo' m = true := by
  cases m with
  | nil => rfl
  | cons c m =>
    simp only [cellsFrom, Bool.and_eq_true, decide_eq_true_eq] at h ⊢
    exact ⟨Nat.le_trans hl h.1, h.2⟩

/-- A write keeps the rising order. -/
theorem cellsFrom_cellPut {lo : Nat} {m : List (Nat × α)} {i : Nat} (v : α) (h : cellsFrom lo m = true) (hi : lo ≤ i) :
    cellsFrom lo (cellPut m i v) = true := by
  induction m generalizing lo with
  | nil => simp [cellPut, cellsFrom, hi]
  | cons c m ih =>
    obtain ⟨k, x⟩ := c
    simp only [cellsFrom, Bool.and_eq_true, decide_eq_true_eq] at h
    simp only [cellPut]
    split
    · rename_i h1
      simp only [cellsFrom, Bool.and_eq_true, decide_eq_true_eq]
      exact ⟨hi, h1, h.2⟩
    · split
      · rename_i h2
        subst h2
        simp only [cellsFrom, Bool.and_eq_true, decide_eq_true_eq]
        exact ⟨hi, h.2⟩
      · rename_i h1 h2
        simp only [cellsFrom, Bool.and_eq_true, decide_eq_true_eq]
        exact ⟨h.1, ih h.2 (by omega)⟩

/-- A write at a key below a bound keeps the keys below it. -/
theorem cellsBelow_cellPut {hi : Nat} {m : List (Nat × α)} {i : Nat} (v : α) (h : cellsBelow hi m = true)
    (hlt : i < hi) : cellsBelow hi (cellPut m i v) = true := by
  induction m with
  | nil => simp [cellPut, cellsBelow, hlt]
  | cons c m ih =>
    obtain ⟨k, x⟩ := c
    simp only [cellsBelow, List.all_cons, Bool.and_eq_true, decide_eq_true_eq] at h ih
    simp only [cellPut]
    split
    · simp only [cellsBelow, List.all_cons, Bool.and_eq_true, decide_eq_true_eq]
      exact ⟨hlt, h⟩
    · split
      · simp only [cellsBelow, List.all_cons, Bool.and_eq_true, decide_eq_true_eq]
        exact ⟨hlt, h.2⟩
      · simp only [cellsBelow, List.all_cons, Bool.and_eq_true, decide_eq_true_eq]
        exact ⟨h.1, ih h.2⟩

end cells

/-! The node store keeps its canonical form. -/

theorem reset_memory_wf : Memory.wf (resetAt P).NODE = true := rfl

theorem dropTree_memory_wf (s : State P) : Memory.wf (dropTree s).NODE = true := rfl

/-- A write at an index below `NODE_CAP` keeps the canonical form. -/
theorem memory_wf_put {m : Memory P} {i : Nat} (r : NodeRec P) (h : Memory.wf m = true) (hi : i < P.NODE_CAP) :
    Memory.wf (cellPut m i r) = true := by
  simp only [Memory.wf, Bool.and_eq_true] at h ⊢
  exact ⟨cellsFrom_cellPut r h.1 (Nat.zero_le i), cellsBelow_cellPut r h.2 hi⟩

/-- A record that can be read is not `NODE[NIL]` (R51). -/
theorem nodeRead_ne_nil {m : Memory P} {i : Idx P} {r : NodeRec P} (h : nodeRead m i = .ok r) : i ≠ NIL := by
  intro hi
  simp [nodeRead, hi] at h

@[simp] theorem nil_toNat : (NIL : Idx P).toNat = 2 ^ P.IDX_BITS - 1 := by
  have := Nat.two_pow_pos P.IDX_BITS
  rw [NIL, BitVec.toNat_ofNat, Nat.mod_eq_of_lt (by omega)]

/-- An index that is not `NIL` is below it. -/
theorem idx_lt_of_ne_nil {i : Idx P} (h : i ≠ NIL) : i.toNat < 2 ^ P.IDX_BITS - 1 := by
  have h1 : i.toNat ≠ (NIL : Idx P).toNat := fun e => h (BitVec.eq_of_toNat_eq e)
  have h2 := i.isLt
  simp only [nil_toNat] at h1
  omega

/-! Reads and writes of the node store. -/

/-- A read that answers names a listed record. -/
theorem nodeRead_eq_ok {m : Memory P} {i : Idx P} {r : NodeRec P} :
    nodeRead m i = .ok r ↔ i ≠ NIL ∧ cellGet m i.toNat = some r := by
  unfold nodeRead
  split
  · simp_all
  · cases h : cellGet m i.toNat <;> simp_all

theorem nodeRead_put_same {m : Memory P} {i : Idx P} (r : NodeRec P) (hi : i ≠ NIL) :
    nodeRead (cellPut m i.toNat r) i = .ok r :=
  nodeRead_eq_ok.mpr ⟨hi, cellGet_cellPut_same m i.toNat r⟩

theorem nodeRead_put_ne {m : Memory P} {i j : Idx P} (r : NodeRec P) (h : j ≠ i) :
    nodeRead (cellPut m i.toNat r) j = nodeRead m j := by
  have : j.toNat ≠ i.toNat := fun e => h (BitVec.eq_of_toNat_eq e)
  simp [nodeRead, cellGet_cellPut_ne m r this]

/-- A write of a record that can be read keeps the canonical form (R142, R143). -/
theorem nodeWrite_memory_wf {s : State P} {i : Idx P} {r0 : NodeRec P} (r : NodeRec P) (h : Memory.wf s.NODE = true)
    (hr : nodeRead s.NODE i = .ok r0) : Memory.wf (nodeWrite s i r).NODE = true := by
  refine memory_wf_put r h ?_
  have hm := cellGet_mem (nodeRead_eq_ok.mp hr).2
  simp only [Memory.wf, cellsBelow, Bool.and_eq_true, List.all_eq_true] at h
  simpa using h.2 _ hm

/-- Everything `alloc` can do when it answers (R54). -/
theorem alloc_eq_ok {r : NodeRec P} {s t : State P} {i : Idx P} :
    alloc r s = .ok (i, t) ↔
      s.NEXT.toNat < P.NODE_CAP ∧ i = s.NEXT.setWidth P.IDX_BITS ∧
        t = { s with NODE := cellPut s.NODE s.NEXT.toNat r, NEXT := s.NEXT + 1 } := by
  unfold alloc
  split
  · simp_all [eq_comm]
  · simp_all

/-- The index `alloc` hands out is NEXT. -/
theorem next_idx_toNat {s : State P} (hP : P.ok) (h : s.NEXT.toNat < P.NODE_CAP) :
    (s.NEXT.setWidth P.IDX_BITS).toNat = s.NEXT.toNat := by
  obtain ⟨-, -, -, -, -, -, hn, -⟩ := hP
  have := Nat.two_pow_pos P.IDX_BITS
  rw [BitVec.toNat_setWidth, Nat.mod_eq_of_lt (by omega)]

theorem alloc_memory_wf {r : NodeRec P} {s t : State P} {i : Idx P} (h : Memory.wf s.NODE = true)
    (ha : alloc r s = .ok (i, t)) : Memory.wf t.NODE = true := by
  obtain ⟨hn, -, rfl⟩ := alloc_eq_ok.mp ha
  exact memory_wf_put r h hn

/-! The stack. -/

theorem stackAt_eq_ok {s : State P} {k : Nat} {e : StackEntry P} : stackAt s k = .ok e ↔ cellGet s.STACK k = some e := by
  unfold stackAt
  cases h : cellGet s.STACK k <;> simp_all

theorem reset_stack_wf : StackMemory.wf (resetAt P).STACK = true := rfl

theorem stack_wf_put {m : StackMemory P} {k : Nat} (e : StackEntry P) (h : StackMemory.wf m = true)
    (hk : k < P.STACK_CAP) : StackMemory.wf (cellPut m k e) = true := by
  simp only [StackMemory.wf, Bool.and_eq_true] at h ⊢
  exact ⟨cellsFrom_cellPut e h.1 (Nat.zero_le k), cellsBelow_cellPut e h.2 hk⟩

end Sys2Proof.Machine
end

