-- ==== Sys2Proof/Laws/PerInstr.lean ====
section
/-! SUPPORT. The per-instruction family EncodeFits: the word of an instruction fits the width of its format (R80). -/

namespace Sys2Proof.Laws

/-- The word of an instruction fits its format (R80). -/
def EncodeFits.Statement (i : Instr) : Prop := encode i < 2 ^ i.format.width

theorem EncodeFits.build : EncodeFits.Statement .build := by unfold EncodeFits.Statement; decide

theorem EncodeFits.restore : EncodeFits.Statement .restore := by unfold EncodeFits.Statement; decide

theorem EncodeFits.serialize : EncodeFits.Statement .serialize := by unfold EncodeFits.Statement; decide

theorem EncodeFits.decode : EncodeFits.Statement .decode := by unfold EncodeFits.Statement; decide

theorem EncodeFits.reserved0 : EncodeFits.Statement .reserved0 := by unfold EncodeFits.Statement; decide

theorem EncodeFits.reserved5 : EncodeFits.Statement .reserved5 := by unfold EncodeFits.Statement; decide

theorem EncodeFits.reserved6 : EncodeFits.Statement .reserved6 := by unfold EncodeFits.Statement; decide

theorem EncodeFits.reserved7 : EncodeFits.Statement .reserved7 := by unfold EncodeFits.Statement; decide

theorem EncodeFits.bitL : EncodeFits.Statement .bitL := by unfold EncodeFits.Statement; decide

theorem EncodeFits.bitR : EncodeFits.Statement .bitR := by unfold EncodeFits.Statement; decide

theorem EncodeFits.symDigit0 : EncodeFits.Statement .symDigit0 := by unfold EncodeFits.Statement; decide

theorem EncodeFits.symDigit1 : EncodeFits.Statement .symDigit1 := by unfold EncodeFits.Statement; decide

theorem EncodeFits.symDigit2 : EncodeFits.Statement .symDigit2 := by unfold EncodeFits.Statement; decide

theorem EncodeFits.symDigit3 : EncodeFits.Statement .symDigit3 := by unfold EncodeFits.Statement; decide

theorem EncodeFits.symDigit4 : EncodeFits.Statement .symDigit4 := by unfold EncodeFits.Statement; decide

theorem EncodeFits.symDigit5 : EncodeFits.Statement .symDigit5 := by unfold EncodeFits.Statement; decide

theorem EncodeFits.symDigit6 : EncodeFits.Statement .symDigit6 := by unfold EncodeFits.Statement; decide

theorem EncodeFits.symDigit7 : EncodeFits.Statement .symDigit7 := by unfold EncodeFits.Statement; decide

theorem EncodeFits.symDigit8 : EncodeFits.Statement .symDigit8 := by unfold EncodeFits.Statement; decide

theorem EncodeFits.symDigit9 : EncodeFits.Statement .symDigit9 := by unfold EncodeFits.Statement; decide

theorem EncodeFits.symLf : EncodeFits.Statement .symLf := by unfold EncodeFits.Statement; decide

theorem EncodeFits.symOther (c : Byte) : EncodeFits.Statement (.symOther c) := c.isLt

theorem EncodeFits.bits0 : EncodeFits.Statement .bits0 := by unfold EncodeFits.Statement; decide

theorem EncodeFits.bits1 : EncodeFits.Statement .bits1 := by unfold EncodeFits.Statement; decide

theorem EncodeFits.bitsLf : EncodeFits.Statement .bitsLf := by unfold EncodeFits.Statement; decide

theorem EncodeFits.bitsOther (c : Byte) : EncodeFits.Statement (.bitsOther c) := c.isLt

end Sys2Proof.Laws
end

