-- ==== Sys2Proof/Laws/Reach.lean ====
section
/-! SUPPORT. Reachability in the node store (R32): following a bit-string, then one more link; what a walk under DECODE
needs. -/

namespace Sys2Proof.Machine

variable {P : Params}

@[simp] theorem followPath_nil (m : Memory P) (i : Idx P) : followPath m i [] = some i := rfl

/-- The first link of a bit-string. -/
theorem followPath_cons {m : Memory P} {i : Idx P} {r : NodeRec P} (h : nodeRead m i = .ok r) (b : Bool)
    (q : List Bool) : followPath m i (b :: q) = followPath m (childOf b r) q := by
  simp only [followPath, h]

/-- A bit-string and then another. -/
theorem followPath_append (m : Memory P) (i : Idx P) (q q' : List Bool) :
    followPath m i (q ++ q') = (followPath m i q).bind (fun j => followPath m j q') := by
  induction q generalizing i with
  | nil => rfl
  | cons b q ih =>
    simp only [List.cons_append, followPath]
    split
    · exact ih _
    · rfl

/-- A node is reachable from itself. -/
theorem Reachable_refl (m : Memory P) (i : Idx P) : Reachable m i i := ⟨[], rfl⟩

/-- A child of a reachable node is reachable. -/
theorem Reachable_child {m : Memory P} {i j : Idx P} {r : NodeRec P} (h : Reachable m i j) (hr : nodeRead m j = .ok r)
    (b : Bool) : Reachable m i (childOf b r) := by
  obtain ⟨q, hq⟩ := h
  refine ⟨q ++ [b], ?_⟩
  simp [followPath_append, hq, followPath_cons hr]

end Sys2Proof.Machine
end

