-- ==== Sys2Proof/Laws/State.lean ====
section
/-! SUPPORT. One lemma per field for each update of the state, for any parameters, so that no proof unfolds a record
update. -/

namespace Sys2Proof.Machine

variable {P : Params}

/-! `raise`. -/

@[simp] theorem raise_PHASE (f : Cause) (s : State P) : (raise f s).PHASE = .fault := rfl
@[simp] theorem raise_CAUSE (f : Cause) (s : State P) : (raise f s).CAUSE = f := rfl
@[simp] theorem raise_TV (f : Cause) (s : State P) : (raise f s).TV = s.TV := rfl
@[simp] theorem raise_ROOT (f : Cause) (s : State P) : (raise f s).ROOT = s.ROOT := rfl
@[simp] theorem raise_NEXT (f : Cause) (s : State P) : (raise f s).NEXT = s.NEXT := rfl
@[simp] theorem raise_CUR (f : Cause) (s : State P) : (raise f s).CUR = s.CUR := rfl
@[simp] theorem raise_I (f : Cause) (s : State P) : (raise f s).I = s.I := rfl
@[simp] theorem raise_NODE (f : Cause) (s : State P) : (raise f s).NODE = s.NODE := rfl
@[simp] theorem raise_PQ (f : Cause) (s : State P) : (raise f s).PQ = s.PQ := rfl
@[simp] theorem raise_SYMACC (f : Cause) (s : State P) : (raise f s).SYMACC = s.SYMACC := rfl
@[simp] theorem raise_NDIG (f : Cause) (s : State P) : (raise f s).NDIG = s.NDIG := rfl
@[simp] theorem raise_RSYM (f : Cause) (s : State P) : (raise f s).RSYM = s.RSYM := rfl
@[simp] theorem raise_CURB (f : Cause) (s : State P) : (raise f s).CURB = s.CURB := rfl
@[simp] theorem raise_DEPTH (f : Cause) (s : State P) : (raise f s).DEPTH = s.DEPTH := rfl
@[simp] theorem raise_CF (f : Cause) (s : State P) : (raise f s).CF = s.CF := rfl
@[simp] theorem raise_ASSIGNED (f : Cause) (s : State P) : (raise f s).ASSIGNED = s.ASSIGNED := rfl
@[simp] theorem raise_NPAIRS (f : Cause) (s : State P) : (raise f s).NPAIRS = s.NPAIRS := rfl
@[simp] theorem raise_STACK (f : Cause) (s : State P) : (raise f s).STACK = s.STACK := rfl
@[simp] theorem raise_SP (f : Cause) (s : State P) : (raise f s).SP = s.SP := rfl
@[simp] theorem raise_PATH (f : Cause) (s : State P) : (raise f s).PATH = s.PATH := rfl
@[simp] theorem raise_LEN (f : Cause) (s : State P) : (raise f s).LEN = s.LEN := rfl
@[simp] theorem raise_FREQ (f : Cause) (s : State P) : (raise f s).FREQ = s.FREQ := rfl
@[simp] theorem raise_IN_TEXT (f : Cause) (s : State P) : (raise f s).IN_TEXT = s.IN_TEXT := rfl
@[simp] theorem raise_IN_BITS (f : Cause) (s : State P) : (raise f s).IN_BITS = s.IN_BITS := rfl
@[simp] theorem raise_OUT_TEXT (f : Cause) (s : State P) : (raise f s).OUT_TEXT = s.OUT_TEXT := rfl
@[simp] theorem raise_OUT_PAIRS (f : Cause) (s : State P) : (raise f s).OUT_PAIRS = s.OUT_PAIRS := rfl
@[simp] theorem raise_OUT_SYMS (f : Cause) (s : State P) : (raise f s).OUT_SYMS = s.OUT_SYMS := rfl
@[simp] theorem raise_offer (f : Cause) (s : State P) : (raise f s).offer = s.offer := rfl
@[simp] theorem raise_script (f : Cause) (s : State P) : (raise f s).script = s.script := rfl
@[simp] theorem raise_statusReads (f : Cause) (s : State P) : (raise f s).statusReads = s.statusReads := rfl

/-! `dropTree`. -/

@[simp] theorem dropTree_PHASE (s : State P) : (dropTree s).PHASE = s.PHASE := rfl
@[simp] theorem dropTree_CAUSE (s : State P) : (dropTree s).CAUSE = s.CAUSE := rfl
@[simp] theorem dropTree_TV (s : State P) : (dropTree s).TV = false := rfl
@[simp] theorem dropTree_ROOT (s : State P) : (dropTree s).ROOT = NIL := rfl
@[simp] theorem dropTree_NEXT (s : State P) : (dropTree s).NEXT = 0 := rfl
@[simp] theorem dropTree_CUR (s : State P) : (dropTree s).CUR = s.CUR := rfl
@[simp] theorem dropTree_I (s : State P) : (dropTree s).I = s.I := rfl
@[simp] theorem dropTree_NODE (s : State P) : (dropTree s).NODE = [] := rfl
@[simp] theorem dropTree_PQ (s : State P) : (dropTree s).PQ = s.PQ := rfl
@[simp] theorem dropTree_SYMACC (s : State P) : (dropTree s).SYMACC = s.SYMACC := rfl
@[simp] theorem dropTree_NDIG (s : State P) : (dropTree s).NDIG = s.NDIG := rfl
@[simp] theorem dropTree_RSYM (s : State P) : (dropTree s).RSYM = s.RSYM := rfl
@[simp] theorem dropTree_CURB (s : State P) : (dropTree s).CURB = s.CURB := rfl
@[simp] theorem dropTree_DEPTH (s : State P) : (dropTree s).DEPTH = s.DEPTH := rfl
@[simp] theorem dropTree_CF (s : State P) : (dropTree s).CF = s.CF := rfl
@[simp] theorem dropTree_ASSIGNED (s : State P) : (dropTree s).ASSIGNED = s.ASSIGNED := rfl
@[simp] theorem dropTree_NPAIRS (s : State P) : (dropTree s).NPAIRS = s.NPAIRS := rfl
@[simp] theorem dropTree_STACK (s : State P) : (dropTree s).STACK = s.STACK := rfl
@[simp] theorem dropTree_SP (s : State P) : (dropTree s).SP = s.SP := rfl
@[simp] theorem dropTree_PATH (s : State P) : (dropTree s).PATH = s.PATH := rfl
@[simp] theorem dropTree_LEN (s : State P) : (dropTree s).LEN = s.LEN := rfl
@[simp] theorem dropTree_FREQ (s : State P) : (dropTree s).FREQ = s.FREQ := rfl
@[simp] theorem dropTree_IN_TEXT (s : State P) : (dropTree s).IN_TEXT = s.IN_TEXT := rfl
@[simp] theorem dropTree_IN_BITS (s : State P) : (dropTree s).IN_BITS = s.IN_BITS := rfl
@[simp] theorem dropTree_OUT_TEXT (s : State P) : (dropTree s).OUT_TEXT = s.OUT_TEXT := rfl
@[simp] theorem dropTree_OUT_PAIRS (s : State P) : (dropTree s).OUT_PAIRS = s.OUT_PAIRS := rfl
@[simp] theorem dropTree_OUT_SYMS (s : State P) : (dropTree s).OUT_SYMS = s.OUT_SYMS := rfl
@[simp] theorem dropTree_offer (s : State P) : (dropTree s).offer = s.offer := rfl
@[simp] theorem dropTree_script (s : State P) : (dropTree s).script = s.script := rfl
@[simp] theorem dropTree_statusReads (s : State P) : (dropTree s).statusReads = s.statusReads := rfl

/-! `nodeWrite`. -/

@[simp] theorem nodeWrite_PHASE (s : State P) (i : Idx P) (r : NodeRec P) : (nodeWrite s i r).PHASE = s.PHASE := rfl
@[simp] theorem nodeWrite_CAUSE (s : State P) (i : Idx P) (r : NodeRec P) : (nodeWrite s i r).CAUSE = s.CAUSE := rfl
@[simp] theorem nodeWrite_TV (s : State P) (i : Idx P) (r : NodeRec P) : (nodeWrite s i r).TV = s.TV := rfl
@[simp] theorem nodeWrite_ROOT (s : State P) (i : Idx P) (r : NodeRec P) : (nodeWrite s i r).ROOT = s.ROOT := rfl
@[simp] theorem nodeWrite_NEXT (s : State P) (i : Idx P) (r : NodeRec P) : (nodeWrite s i r).NEXT = s.NEXT := rfl
@[simp] theorem nodeWrite_CUR (s : State P) (i : Idx P) (r : NodeRec P) : (nodeWrite s i r).CUR = s.CUR := rfl
@[simp] theorem nodeWrite_I (s : State P) (i : Idx P) (r : NodeRec P) : (nodeWrite s i r).I = s.I := rfl
@[simp] theorem nodeWrite_NODE (s : State P) (i : Idx P) (r : NodeRec P) : (nodeWrite s i r).NODE = cellPut s.NODE i.toNat r := rfl
@[simp] theorem nodeWrite_PQ (s : State P) (i : Idx P) (r : NodeRec P) : (nodeWrite s i r).PQ = s.PQ := rfl
@[simp] theorem nodeWrite_SYMACC (s : State P) (i : Idx P) (r : NodeRec P) : (nodeWrite s i r).SYMACC = s.SYMACC := rfl
@[simp] theorem nodeWrite_NDIG (s : State P) (i : Idx P) (r : NodeRec P) : (nodeWrite s i r).NDIG = s.NDIG := rfl
@[simp] theorem nodeWrite_RSYM (s : State P) (i : Idx P) (r : NodeRec P) : (nodeWrite s i r).RSYM = s.RSYM := rfl
@[simp] theorem nodeWrite_CURB (s : State P) (i : Idx P) (r : NodeRec P) : (nodeWrite s i r).CURB = s.CURB := rfl
@[simp] theorem nodeWrite_DEPTH (s : State P) (i : Idx P) (r : NodeRec P) : (nodeWrite s i r).DEPTH = s.DEPTH := rfl
@[simp] theorem nodeWrite_CF (s : State P) (i : Idx P) (r : NodeRec P) : (nodeWrite s i r).CF = s.CF := rfl
@[simp] theorem nodeWrite_ASSIGNED (s : State P) (i : Idx P) (r : NodeRec P) : (nodeWrite s i r).ASSIGNED = s.ASSIGNED := rfl
@[simp] theorem nodeWrite_NPAIRS (s : State P) (i : Idx P) (r : NodeRec P) : (nodeWrite s i r).NPAIRS = s.NPAIRS := rfl
@[simp] theorem nodeWrite_STACK (s : State P) (i : Idx P) (r : NodeRec P) : (nodeWrite s i r).STACK = s.STACK := rfl
@[simp] theorem nodeWrite_SP (s : State P) (i : Idx P) (r : NodeRec P) : (nodeWrite s i r).SP = s.SP := rfl
@[simp] theorem nodeWrite_PATH (s : State P) (i : Idx P) (r : NodeRec P) : (nodeWrite s i r).PATH = s.PATH := rfl
@[simp] theorem nodeWrite_LEN (s : State P) (i : Idx P) (r : NodeRec P) : (nodeWrite s i r).LEN = s.LEN := rfl
@[simp] theorem nodeWrite_FREQ (s : State P) (i : Idx P) (r : NodeRec P) : (nodeWrite s i r).FREQ = s.FREQ := rfl
@[simp] theorem nodeWrite_IN_TEXT (s : State P) (i : Idx P) (r : NodeRec P) : (nodeWrite s i r).IN_TEXT = s.IN_TEXT := rfl
@[simp] theorem nodeWrite_IN_BITS (s : State P) (i : Idx P) (r : NodeRec P) : (nodeWrite s i r).IN_BITS = s.IN_BITS := rfl
@[simp] theorem nodeWrite_OUT_TEXT (s : State P) (i : Idx P) (r : NodeRec P) : (nodeWrite s i r).OUT_TEXT = s.OUT_TEXT := rfl
@[simp] theorem nodeWrite_OUT_PAIRS (s : State P) (i : Idx P) (r : NodeRec P) : (nodeWrite s i r).OUT_PAIRS = s.OUT_PAIRS := rfl
@[simp] theorem nodeWrite_OUT_SYMS (s : State P) (i : Idx P) (r : NodeRec P) : (nodeWrite s i r).OUT_SYMS = s.OUT_SYMS := rfl
@[simp] theorem nodeWrite_offer (s : State P) (i : Idx P) (r : NodeRec P) : (nodeWrite s i r).offer = s.offer := rfl
@[simp] theorem nodeWrite_script (s : State P) (i : Idx P) (r : NodeRec P) : (nodeWrite s i r).script = s.script := rfl
@[simp] theorem nodeWrite_statusReads (s : State P) (i : Idx P) (r : NodeRec P) : (nodeWrite s i r).statusReads = s.statusReads := rfl

/-! `pathPut`. -/

@[simp] theorem pathPut_PHASE (k : Nat) (b : Bool) (s : State P) : (pathPut k b s).PHASE = s.PHASE := rfl
@[simp] theorem pathPut_CAUSE (k : Nat) (b : Bool) (s : State P) : (pathPut k b s).CAUSE = s.CAUSE := rfl
@[simp] theorem pathPut_TV (k : Nat) (b : Bool) (s : State P) : (pathPut k b s).TV = s.TV := rfl
@[simp] theorem pathPut_ROOT (k : Nat) (b : Bool) (s : State P) : (pathPut k b s).ROOT = s.ROOT := rfl
@[simp] theorem pathPut_NEXT (k : Nat) (b : Bool) (s : State P) : (pathPut k b s).NEXT = s.NEXT := rfl
@[simp] theorem pathPut_CUR (k : Nat) (b : Bool) (s : State P) : (pathPut k b s).CUR = s.CUR := rfl
@[simp] theorem pathPut_I (k : Nat) (b : Bool) (s : State P) : (pathPut k b s).I = s.I := rfl
@[simp] theorem pathPut_NODE (k : Nat) (b : Bool) (s : State P) : (pathPut k b s).NODE = s.NODE := rfl
@[simp] theorem pathPut_PQ (k : Nat) (b : Bool) (s : State P) : (pathPut k b s).PQ = s.PQ := rfl
@[simp] theorem pathPut_SYMACC (k : Nat) (b : Bool) (s : State P) : (pathPut k b s).SYMACC = s.SYMACC := rfl
@[simp] theorem pathPut_NDIG (k : Nat) (b : Bool) (s : State P) : (pathPut k b s).NDIG = s.NDIG := rfl
@[simp] theorem pathPut_RSYM (k : Nat) (b : Bool) (s : State P) : (pathPut k b s).RSYM = s.RSYM := rfl
@[simp] theorem pathPut_CURB (k : Nat) (b : Bool) (s : State P) : (pathPut k b s).CURB = s.CURB := rfl
@[simp] theorem pathPut_DEPTH (k : Nat) (b : Bool) (s : State P) : (pathPut k b s).DEPTH = s.DEPTH := rfl
@[simp] theorem pathPut_CF (k : Nat) (b : Bool) (s : State P) : (pathPut k b s).CF = s.CF := rfl
@[simp] theorem pathPut_ASSIGNED (k : Nat) (b : Bool) (s : State P) : (pathPut k b s).ASSIGNED = s.ASSIGNED := rfl
@[simp] theorem pathPut_NPAIRS (k : Nat) (b : Bool) (s : State P) : (pathPut k b s).NPAIRS = s.NPAIRS := rfl
@[simp] theorem pathPut_STACK (k : Nat) (b : Bool) (s : State P) : (pathPut k b s).STACK = s.STACK := rfl
@[simp] theorem pathPut_SP (k : Nat) (b : Bool) (s : State P) : (pathPut k b s).SP = s.SP := rfl
@[simp] theorem pathPut_PATH (k : Nat) (b : Bool) (s : State P) : (pathPut k b s).PATH = s.PATH.setIfInBounds k b := rfl
@[simp] theorem pathPut_LEN (k : Nat) (b : Bool) (s : State P) : (pathPut k b s).LEN = s.LEN := rfl
@[simp] theorem pathPut_FREQ (k : Nat) (b : Bool) (s : State P) : (pathPut k b s).FREQ = s.FREQ := rfl
@[simp] theorem pathPut_IN_TEXT (k : Nat) (b : Bool) (s : State P) : (pathPut k b s).IN_TEXT = s.IN_TEXT := rfl
@[simp] theorem pathPut_IN_BITS (k : Nat) (b : Bool) (s : State P) : (pathPut k b s).IN_BITS = s.IN_BITS := rfl
@[simp] theorem pathPut_OUT_TEXT (k : Nat) (b : Bool) (s : State P) : (pathPut k b s).OUT_TEXT = s.OUT_TEXT := rfl
@[simp] theorem pathPut_OUT_PAIRS (k : Nat) (b : Bool) (s : State P) : (pathPut k b s).OUT_PAIRS = s.OUT_PAIRS := rfl
@[simp] theorem pathPut_OUT_SYMS (k : Nat) (b : Bool) (s : State P) : (pathPut k b s).OUT_SYMS = s.OUT_SYMS := rfl
@[simp] theorem pathPut_offer (k : Nat) (b : Bool) (s : State P) : (pathPut k b s).offer = s.offer := rfl
@[simp] theorem pathPut_script (k : Nat) (b : Bool) (s : State P) : (pathPut k b s).script = s.script := rfl
@[simp] theorem pathPut_statusReads (k : Nat) (b : Bool) (s : State P) : (pathPut k b s).statusReads = s.statusReads := rfl

/-! `sinkPut`. -/

@[simp] theorem sinkPut_PHASE (x : Sym P) (s : State P) : (sinkPut x s).PHASE = s.PHASE := rfl
@[simp] theorem sinkPut_CAUSE (x : Sym P) (s : State P) : (sinkPut x s).CAUSE = s.CAUSE := rfl
@[simp] theorem sinkPut_TV (x : Sym P) (s : State P) : (sinkPut x s).TV = s.TV := rfl
@[simp] theorem sinkPut_ROOT (x : Sym P) (s : State P) : (sinkPut x s).ROOT = s.ROOT := rfl
@[simp] theorem sinkPut_NEXT (x : Sym P) (s : State P) : (sinkPut x s).NEXT = s.NEXT := rfl
@[simp] theorem sinkPut_CUR (x : Sym P) (s : State P) : (sinkPut x s).CUR = s.CUR := rfl
@[simp] theorem sinkPut_I (x : Sym P) (s : State P) : (sinkPut x s).I = s.I := rfl
@[simp] theorem sinkPut_NODE (x : Sym P) (s : State P) : (sinkPut x s).NODE = s.NODE := rfl
@[simp] theorem sinkPut_PQ (x : Sym P) (s : State P) : (sinkPut x s).PQ = s.PQ := rfl
@[simp] theorem sinkPut_SYMACC (x : Sym P) (s : State P) : (sinkPut x s).SYMACC = s.SYMACC := rfl
@[simp] theorem sinkPut_NDIG (x : Sym P) (s : State P) : (sinkPut x s).NDIG = s.NDIG := rfl
@[simp] theorem sinkPut_RSYM (x : Sym P) (s : State P) : (sinkPut x s).RSYM = s.RSYM := rfl
@[simp] theorem sinkPut_CURB (x : Sym P) (s : State P) : (sinkPut x s).CURB = s.CURB := rfl
@[simp] theorem sinkPut_DEPTH (x : Sym P) (s : State P) : (sinkPut x s).DEPTH = s.DEPTH := rfl
@[simp] theorem sinkPut_CF (x : Sym P) (s : State P) : (sinkPut x s).CF = s.CF := rfl
@[simp] theorem sinkPut_ASSIGNED (x : Sym P) (s : State P) : (sinkPut x s).ASSIGNED = s.ASSIGNED := rfl
@[simp] theorem sinkPut_NPAIRS (x : Sym P) (s : State P) : (sinkPut x s).NPAIRS = s.NPAIRS := rfl
@[simp] theorem sinkPut_STACK (x : Sym P) (s : State P) : (sinkPut x s).STACK = s.STACK := rfl
@[simp] theorem sinkPut_SP (x : Sym P) (s : State P) : (sinkPut x s).SP = s.SP := rfl
@[simp] theorem sinkPut_PATH (x : Sym P) (s : State P) : (sinkPut x s).PATH = s.PATH := rfl
@[simp] theorem sinkPut_LEN (x : Sym P) (s : State P) : (sinkPut x s).LEN = s.LEN := rfl
@[simp] theorem sinkPut_FREQ (x : Sym P) (s : State P) : (sinkPut x s).FREQ = s.FREQ := rfl
@[simp] theorem sinkPut_IN_TEXT (x : Sym P) (s : State P) : (sinkPut x s).IN_TEXT = s.IN_TEXT := rfl
@[simp] theorem sinkPut_IN_BITS (x : Sym P) (s : State P) : (sinkPut x s).IN_BITS = s.IN_BITS := rfl
@[simp] theorem sinkPut_OUT_TEXT (x : Sym P) (s : State P) : (sinkPut x s).OUT_TEXT = s.OUT_TEXT := rfl
@[simp] theorem sinkPut_OUT_PAIRS (x : Sym P) (s : State P) : (sinkPut x s).OUT_PAIRS = s.OUT_PAIRS := rfl
@[simp] theorem sinkPut_OUT_SYMS (x : Sym P) (s : State P) : (sinkPut x s).OUT_SYMS = s.OUT_SYMS ++ [x] := rfl
@[simp] theorem sinkPut_offer (x : Sym P) (s : State P) : (sinkPut x s).offer = s.offer := rfl
@[simp] theorem sinkPut_script (x : Sym P) (s : State P) : (sinkPut x s).script = s.script := rfl
@[simp] theorem sinkPut_statusReads (x : Sym P) (s : State P) : (sinkPut x s).statusReads = s.statusReads := rfl

/-! `toutPut`. -/

@[simp] theorem toutPut_PHASE (cs : List Byte) (s : State P) : (toutPut cs s).PHASE = s.PHASE := rfl
@[simp] theorem toutPut_CAUSE (cs : List Byte) (s : State P) : (toutPut cs s).CAUSE = s.CAUSE := rfl
@[simp] theorem toutPut_TV (cs : List Byte) (s : State P) : (toutPut cs s).TV = s.TV := rfl
@[simp] theorem toutPut_ROOT (cs : List Byte) (s : State P) : (toutPut cs s).ROOT = s.ROOT := rfl
@[simp] theorem toutPut_NEXT (cs : List Byte) (s : State P) : (toutPut cs s).NEXT = s.NEXT := rfl
@[simp] theorem toutPut_CUR (cs : List Byte) (s : State P) : (toutPut cs s).CUR = s.CUR := rfl
@[simp] theorem toutPut_I (cs : List Byte) (s : State P) : (toutPut cs s).I = s.I := rfl
@[simp] theorem toutPut_NODE (cs : List Byte) (s : State P) : (toutPut cs s).NODE = s.NODE := rfl
@[simp] theorem toutPut_PQ (cs : List Byte) (s : State P) : (toutPut cs s).PQ = s.PQ := rfl
@[simp] theorem toutPut_SYMACC (cs : List Byte) (s : State P) : (toutPut cs s).SYMACC = s.SYMACC := rfl
@[simp] theorem toutPut_NDIG (cs : List Byte) (s : State P) : (toutPut cs s).NDIG = s.NDIG := rfl
@[simp] theorem toutPut_RSYM (cs : List Byte) (s : State P) : (toutPut cs s).RSYM = s.RSYM := rfl
@[simp] theorem toutPut_CURB (cs : List Byte) (s : State P) : (toutPut cs s).CURB = s.CURB := rfl
@[simp] theorem toutPut_DEPTH (cs : List Byte) (s : State P) : (toutPut cs s).DEPTH = s.DEPTH := rfl
@[simp] theorem toutPut_CF (cs : List Byte) (s : State P) : (toutPut cs s).CF = s.CF := rfl
@[simp] theorem toutPut_ASSIGNED (cs : List Byte) (s : State P) : (toutPut cs s).ASSIGNED = s.ASSIGNED := rfl
@[simp] theorem toutPut_NPAIRS (cs : List Byte) (s : State P) : (toutPut cs s).NPAIRS = s.NPAIRS := rfl
@[simp] theorem toutPut_STACK (cs : List Byte) (s : State P) : (toutPut cs s).STACK = s.STACK := rfl
@[simp] theorem toutPut_SP (cs : List Byte) (s : State P) : (toutPut cs s).SP = s.SP := rfl
@[simp] theorem toutPut_PATH (cs : List Byte) (s : State P) : (toutPut cs s).PATH = s.PATH := rfl
@[simp] theorem toutPut_LEN (cs : List Byte) (s : State P) : (toutPut cs s).LEN = s.LEN := rfl
@[simp] theorem toutPut_FREQ (cs : List Byte) (s : State P) : (toutPut cs s).FREQ = s.FREQ := rfl
@[simp] theorem toutPut_IN_TEXT (cs : List Byte) (s : State P) : (toutPut cs s).IN_TEXT = s.IN_TEXT := rfl
@[simp] theorem toutPut_IN_BITS (cs : List Byte) (s : State P) : (toutPut cs s).IN_BITS = s.IN_BITS := rfl
@[simp] theorem toutPut_OUT_TEXT (cs : List Byte) (s : State P) : (toutPut cs s).OUT_TEXT = s.OUT_TEXT ++ cs := rfl
@[simp] theorem toutPut_OUT_PAIRS (cs : List Byte) (s : State P) : (toutPut cs s).OUT_PAIRS = s.OUT_PAIRS := rfl
@[simp] theorem toutPut_OUT_SYMS (cs : List Byte) (s : State P) : (toutPut cs s).OUT_SYMS = s.OUT_SYMS := rfl
@[simp] theorem toutPut_offer (cs : List Byte) (s : State P) : (toutPut cs s).offer = s.offer := rfl
@[simp] theorem toutPut_script (cs : List Byte) (s : State P) : (toutPut cs s).script = s.script := rfl
@[simp] theorem toutPut_statusReads (cs : List Byte) (s : State P) : (toutPut cs s).statusReads = s.statusReads := rfl

/-! `bindFreq`. -/

@[simp] theorem bindFreq_PHASE (s : State P) : (bindFreq s).PHASE = s.PHASE := rfl
@[simp] theorem bindFreq_CAUSE (s : State P) : (bindFreq s).CAUSE = s.CAUSE := rfl
@[simp] theorem bindFreq_TV (s : State P) : (bindFreq s).TV = s.TV := rfl
@[simp] theorem bindFreq_ROOT (s : State P) : (bindFreq s).ROOT = s.ROOT := rfl
@[simp] theorem bindFreq_NEXT (s : State P) : (bindFreq s).NEXT = s.NEXT := rfl
@[simp] theorem bindFreq_CUR (s : State P) : (bindFreq s).CUR = s.CUR := rfl
@[simp] theorem bindFreq_I (s : State P) : (bindFreq s).I = s.I := rfl
@[simp] theorem bindFreq_NODE (s : State P) : (bindFreq s).NODE = s.NODE := rfl
@[simp] theorem bindFreq_PQ (s : State P) : (bindFreq s).PQ = s.PQ := rfl
@[simp] theorem bindFreq_SYMACC (s : State P) : (bindFreq s).SYMACC = s.SYMACC := rfl
@[simp] theorem bindFreq_NDIG (s : State P) : (bindFreq s).NDIG = s.NDIG := rfl
@[simp] theorem bindFreq_RSYM (s : State P) : (bindFreq s).RSYM = s.RSYM := rfl
@[simp] theorem bindFreq_CURB (s : State P) : (bindFreq s).CURB = s.CURB := rfl
@[simp] theorem bindFreq_DEPTH (s : State P) : (bindFreq s).DEPTH = s.DEPTH := rfl
@[simp] theorem bindFreq_CF (s : State P) : (bindFreq s).CF = s.CF := rfl
@[simp] theorem bindFreq_ASSIGNED (s : State P) : (bindFreq s).ASSIGNED = s.ASSIGNED := rfl
@[simp] theorem bindFreq_NPAIRS (s : State P) : (bindFreq s).NPAIRS = s.NPAIRS := rfl
@[simp] theorem bindFreq_STACK (s : State P) : (bindFreq s).STACK = s.STACK := rfl
@[simp] theorem bindFreq_SP (s : State P) : (bindFreq s).SP = s.SP := rfl
@[simp] theorem bindFreq_PATH (s : State P) : (bindFreq s).PATH = s.PATH := rfl
@[simp] theorem bindFreq_LEN (s : State P) : (bindFreq s).LEN = s.LEN := rfl
@[simp] theorem bindFreq_FREQ (s : State P) : (bindFreq s).FREQ = some s.offer.freq := rfl
@[simp] theorem bindFreq_IN_TEXT (s : State P) : (bindFreq s).IN_TEXT = s.IN_TEXT := rfl
@[simp] theorem bindFreq_IN_BITS (s : State P) : (bindFreq s).IN_BITS = s.IN_BITS := rfl
@[simp] theorem bindFreq_OUT_TEXT (s : State P) : (bindFreq s).OUT_TEXT = s.OUT_TEXT := rfl
@[simp] theorem bindFreq_OUT_PAIRS (s : State P) : (bindFreq s).OUT_PAIRS = s.OUT_PAIRS := rfl
@[simp] theorem bindFreq_OUT_SYMS (s : State P) : (bindFreq s).OUT_SYMS = s.OUT_SYMS := rfl
@[simp] theorem bindFreq_offer (s : State P) : (bindFreq s).offer = s.offer := rfl
@[simp] theorem bindFreq_script (s : State P) : (bindFreq s).script = s.script := rfl
@[simp] theorem bindFreq_statusReads (s : State P) : (bindFreq s).statusReads = s.statusReads := rfl

/-! `bindText`. -/

@[simp] theorem bindText_PHASE (s : State P) : (bindText s).PHASE = s.PHASE := rfl
@[simp] theorem bindText_CAUSE (s : State P) : (bindText s).CAUSE = s.CAUSE := rfl
@[simp] theorem bindText_TV (s : State P) : (bindText s).TV = s.TV := rfl
@[simp] theorem bindText_ROOT (s : State P) : (bindText s).ROOT = s.ROOT := rfl
@[simp] theorem bindText_NEXT (s : State P) : (bindText s).NEXT = s.NEXT := rfl
@[simp] theorem bindText_CUR (s : State P) : (bindText s).CUR = s.CUR := rfl
@[simp] theorem bindText_I (s : State P) : (bindText s).I = s.I := rfl
@[simp] theorem bindText_NODE (s : State P) : (bindText s).NODE = s.NODE := rfl
@[simp] theorem bindText_PQ (s : State P) : (bindText s).PQ = s.PQ := rfl
@[simp] theorem bindText_SYMACC (s : State P) : (bindText s).SYMACC = s.SYMACC := rfl
@[simp] theorem bindText_NDIG (s : State P) : (bindText s).NDIG = s.NDIG := rfl
@[simp] theorem bindText_RSYM (s : State P) : (bindText s).RSYM = s.RSYM := rfl
@[simp] theorem bindText_CURB (s : State P) : (bindText s).CURB = s.CURB := rfl
@[simp] theorem bindText_DEPTH (s : State P) : (bindText s).DEPTH = s.DEPTH := rfl
@[simp] theorem bindText_CF (s : State P) : (bindText s).CF = s.CF := rfl
@[simp] theorem bindText_ASSIGNED (s : State P) : (bindText s).ASSIGNED = s.ASSIGNED := rfl
@[simp] theorem bindText_NPAIRS (s : State P) : (bindText s).NPAIRS = s.NPAIRS := rfl
@[simp] theorem bindText_STACK (s : State P) : (bindText s).STACK = s.STACK := rfl
@[simp] theorem bindText_SP (s : State P) : (bindText s).SP = s.SP := rfl
@[simp] theorem bindText_PATH (s : State P) : (bindText s).PATH = s.PATH := rfl
@[simp] theorem bindText_LEN (s : State P) : (bindText s).LEN = s.LEN := rfl
@[simp] theorem bindText_FREQ (s : State P) : (bindText s).FREQ = s.FREQ := rfl
@[simp] theorem bindText_IN_TEXT (s : State P) : (bindText s).IN_TEXT = some s.offer.text := rfl
@[simp] theorem bindText_IN_BITS (s : State P) : (bindText s).IN_BITS = s.IN_BITS := rfl
@[simp] theorem bindText_OUT_TEXT (s : State P) : (bindText s).OUT_TEXT = s.OUT_TEXT := rfl
@[simp] theorem bindText_OUT_PAIRS (s : State P) : (bindText s).OUT_PAIRS = s.OUT_PAIRS := rfl
@[simp] theorem bindText_OUT_SYMS (s : State P) : (bindText s).OUT_SYMS = s.OUT_SYMS := rfl
@[simp] theorem bindText_offer (s : State P) : (bindText s).offer = s.offer := rfl
@[simp] theorem bindText_script (s : State P) : (bindText s).script = s.script := rfl
@[simp] theorem bindText_statusReads (s : State P) : (bindText s).statusReads = s.statusReads := rfl

/-! `bindBits`. -/

@[simp] theorem bindBits_PHASE (s : State P) : (bindBits s).PHASE = s.PHASE := rfl
@[simp] theorem bindBits_CAUSE (s : State P) : (bindBits s).CAUSE = s.CAUSE := rfl
@[simp] theorem bindBits_TV (s : State P) : (bindBits s).TV = s.TV := rfl
@[simp] theorem bindBits_ROOT (s : State P) : (bindBits s).ROOT = s.ROOT := rfl
@[simp] theorem bindBits_NEXT (s : State P) : (bindBits s).NEXT = s.NEXT := rfl
@[simp] theorem bindBits_CUR (s : State P) : (bindBits s).CUR = s.CUR := rfl
@[simp] theorem bindBits_I (s : State P) : (bindBits s).I = s.I := rfl
@[simp] theorem bindBits_NODE (s : State P) : (bindBits s).NODE = s.NODE := rfl
@[simp] theorem bindBits_PQ (s : State P) : (bindBits s).PQ = s.PQ := rfl
@[simp] theorem bindBits_SYMACC (s : State P) : (bindBits s).SYMACC = s.SYMACC := rfl
@[simp] theorem bindBits_NDIG (s : State P) : (bindBits s).NDIG = s.NDIG := rfl
@[simp] theorem bindBits_RSYM (s : State P) : (bindBits s).RSYM = s.RSYM := rfl
@[simp] theorem bindBits_CURB (s : State P) : (bindBits s).CURB = s.CURB := rfl
@[simp] theorem bindBits_DEPTH (s : State P) : (bindBits s).DEPTH = s.DEPTH := rfl
@[simp] theorem bindBits_CF (s : State P) : (bindBits s).CF = s.CF := rfl
@[simp] theorem bindBits_ASSIGNED (s : State P) : (bindBits s).ASSIGNED = s.ASSIGNED := rfl
@[simp] theorem bindBits_NPAIRS (s : State P) : (bindBits s).NPAIRS = s.NPAIRS := rfl
@[simp] theorem bindBits_STACK (s : State P) : (bindBits s).STACK = s.STACK := rfl
@[simp] theorem bindBits_SP (s : State P) : (bindBits s).SP = s.SP := rfl
@[simp] theorem bindBits_PATH (s : State P) : (bindBits s).PATH = s.PATH := rfl
@[simp] theorem bindBits_LEN (s : State P) : (bindBits s).LEN = s.LEN := rfl
@[simp] theorem bindBits_FREQ (s : State P) : (bindBits s).FREQ = s.FREQ := rfl
@[simp] theorem bindBits_IN_TEXT (s : State P) : (bindBits s).IN_TEXT = s.IN_TEXT := rfl
@[simp] theorem bindBits_IN_BITS (s : State P) : (bindBits s).IN_BITS = some s.offer.bits := rfl
@[simp] theorem bindBits_OUT_TEXT (s : State P) : (bindBits s).OUT_TEXT = s.OUT_TEXT := rfl
@[simp] theorem bindBits_OUT_PAIRS (s : State P) : (bindBits s).OUT_PAIRS = s.OUT_PAIRS := rfl
@[simp] theorem bindBits_OUT_SYMS (s : State P) : (bindBits s).OUT_SYMS = s.OUT_SYMS := rfl
@[simp] theorem bindBits_offer (s : State P) : (bindBits s).offer = s.offer := rfl
@[simp] theorem bindBits_script (s : State P) : (bindBits s).script = s.script := rfl
@[simp] theorem bindBits_statusReads (s : State P) : (bindBits s).statusReads = s.statusReads := rfl

/-! `descend`. -/

@[simp] theorem descend_PHASE (c : Idx P) (s : State P) : (descend c s).PHASE = s.PHASE := rfl
@[simp] theorem descend_CAUSE (c : Idx P) (s : State P) : (descend c s).CAUSE = s.CAUSE := rfl
@[simp] theorem descend_TV (c : Idx P) (s : State P) : (descend c s).TV = s.TV := rfl
@[simp] theorem descend_ROOT (c : Idx P) (s : State P) : (descend c s).ROOT = s.ROOT := rfl
@[simp] theorem descend_NEXT (c : Idx P) (s : State P) : (descend c s).NEXT = s.NEXT := rfl
@[simp] theorem descend_CUR (c : Idx P) (s : State P) : (descend c s).CUR = s.CUR := rfl
@[simp] theorem descend_I (c : Idx P) (s : State P) : (descend c s).I = s.I := rfl
@[simp] theorem descend_NODE (c : Idx P) (s : State P) : (descend c s).NODE = s.NODE := rfl
@[simp] theorem descend_PQ (c : Idx P) (s : State P) : (descend c s).PQ = s.PQ := rfl
@[simp] theorem descend_SYMACC (c : Idx P) (s : State P) : (descend c s).SYMACC = s.SYMACC := rfl
@[simp] theorem descend_NDIG (c : Idx P) (s : State P) : (descend c s).NDIG = s.NDIG := rfl
@[simp] theorem descend_RSYM (c : Idx P) (s : State P) : (descend c s).RSYM = s.RSYM := rfl
@[simp] theorem descend_CURB (c : Idx P) (s : State P) : (descend c s).CURB = c := rfl
@[simp] theorem descend_DEPTH (c : Idx P) (s : State P) : (descend c s).DEPTH = s.DEPTH + 1 := rfl
@[simp] theorem descend_CF (c : Idx P) (s : State P) : (descend c s).CF = s.CF := rfl
@[simp] theorem descend_ASSIGNED (c : Idx P) (s : State P) : (descend c s).ASSIGNED = s.ASSIGNED := rfl
@[simp] theorem descend_NPAIRS (c : Idx P) (s : State P) : (descend c s).NPAIRS = s.NPAIRS := rfl
@[simp] theorem descend_STACK (c : Idx P) (s : State P) : (descend c s).STACK = s.STACK := rfl
@[simp] theorem descend_SP (c : Idx P) (s : State P) : (descend c s).SP = s.SP := rfl
@[simp] theorem descend_PATH (c : Idx P) (s : State P) : (descend c s).PATH = s.PATH := rfl
@[simp] theorem descend_LEN (c : Idx P) (s : State P) : (descend c s).LEN = s.LEN := rfl
@[simp] theorem descend_FREQ (c : Idx P) (s : State P) : (descend c s).FREQ = s.FREQ := rfl
@[simp] theorem descend_IN_TEXT (c : Idx P) (s : State P) : (descend c s).IN_TEXT = s.IN_TEXT := rfl
@[simp] theorem descend_IN_BITS (c : Idx P) (s : State P) : (descend c s).IN_BITS = s.IN_BITS := rfl
@[simp] theorem descend_OUT_TEXT (c : Idx P) (s : State P) : (descend c s).OUT_TEXT = s.OUT_TEXT := rfl
@[simp] theorem descend_OUT_PAIRS (c : Idx P) (s : State P) : (descend c s).OUT_PAIRS = s.OUT_PAIRS := rfl
@[simp] theorem descend_OUT_SYMS (c : Idx P) (s : State P) : (descend c s).OUT_SYMS = s.OUT_SYMS := rfl
@[simp] theorem descend_offer (c : Idx P) (s : State P) : (descend c s).offer = s.offer := rfl
@[simp] theorem descend_script (c : Idx P) (s : State P) : (descend c s).script = s.script := rfl
@[simp] theorem descend_statusReads (c : Idx P) (s : State P) : (descend c s).statusReads = s.statusReads := rfl

/-! `restoreFinish`. -/

@[simp] theorem restoreFinish_PHASE (r : Idx P) (s : State P) : (restoreFinish r s).PHASE = .idle := rfl
@[simp] theorem restoreFinish_CAUSE (r : Idx P) (s : State P) : (restoreFinish r s).CAUSE = s.CAUSE := rfl
@[simp] theorem restoreFinish_TV (r : Idx P) (s : State P) : (restoreFinish r s).TV = true := rfl
@[simp] theorem restoreFinish_ROOT (r : Idx P) (s : State P) : (restoreFinish r s).ROOT = r := rfl
@[simp] theorem restoreFinish_NEXT (r : Idx P) (s : State P) : (restoreFinish r s).NEXT = s.NEXT := rfl
@[simp] theorem restoreFinish_CUR (r : Idx P) (s : State P) : (restoreFinish r s).CUR = s.CUR := rfl
@[simp] theorem restoreFinish_I (r : Idx P) (s : State P) : (restoreFinish r s).I = s.I := rfl
@[simp] theorem restoreFinish_NODE (r : Idx P) (s : State P) : (restoreFinish r s).NODE = s.NODE := rfl
@[simp] theorem restoreFinish_PQ (r : Idx P) (s : State P) : (restoreFinish r s).PQ = s.PQ := rfl
@[simp] theorem restoreFinish_SYMACC (r : Idx P) (s : State P) : (restoreFinish r s).SYMACC = s.SYMACC := rfl
@[simp] theorem restoreFinish_NDIG (r : Idx P) (s : State P) : (restoreFinish r s).NDIG = s.NDIG := rfl
@[simp] theorem restoreFinish_RSYM (r : Idx P) (s : State P) : (restoreFinish r s).RSYM = s.RSYM := rfl
@[simp] theorem restoreFinish_CURB (r : Idx P) (s : State P) : (restoreFinish r s).CURB = s.CURB := rfl
@[simp] theorem restoreFinish_DEPTH (r : Idx P) (s : State P) : (restoreFinish r s).DEPTH = s.DEPTH := rfl
@[simp] theorem restoreFinish_CF (r : Idx P) (s : State P) : (restoreFinish r s).CF = s.CF := rfl
@[simp] theorem restoreFinish_ASSIGNED (r : Idx P) (s : State P) : (restoreFinish r s).ASSIGNED = s.ASSIGNED := rfl
@[simp] theorem restoreFinish_NPAIRS (r : Idx P) (s : State P) : (restoreFinish r s).NPAIRS = s.NPAIRS := rfl
@[simp] theorem restoreFinish_STACK (r : Idx P) (s : State P) : (restoreFinish r s).STACK = s.STACK := rfl
@[simp] theorem restoreFinish_SP (r : Idx P) (s : State P) : (restoreFinish r s).SP = s.SP := rfl
@[simp] theorem restoreFinish_PATH (r : Idx P) (s : State P) : (restoreFinish r s).PATH = s.PATH := rfl
@[simp] theorem restoreFinish_LEN (r : Idx P) (s : State P) : (restoreFinish r s).LEN = s.LEN := rfl
@[simp] theorem restoreFinish_FREQ (r : Idx P) (s : State P) : (restoreFinish r s).FREQ = s.FREQ := rfl
@[simp] theorem restoreFinish_IN_TEXT (r : Idx P) (s : State P) : (restoreFinish r s).IN_TEXT = s.IN_TEXT := rfl
@[simp] theorem restoreFinish_IN_BITS (r : Idx P) (s : State P) : (restoreFinish r s).IN_BITS = s.IN_BITS := rfl
@[simp] theorem restoreFinish_OUT_TEXT (r : Idx P) (s : State P) : (restoreFinish r s).OUT_TEXT = s.OUT_TEXT := rfl
@[simp] theorem restoreFinish_OUT_PAIRS (r : Idx P) (s : State P) : (restoreFinish r s).OUT_PAIRS = s.OUT_PAIRS := rfl
@[simp] theorem restoreFinish_OUT_SYMS (r : Idx P) (s : State P) : (restoreFinish r s).OUT_SYMS = s.OUT_SYMS := rfl
@[simp] theorem restoreFinish_offer (r : Idx P) (s : State P) : (restoreFinish r s).offer = s.offer := rfl
@[simp] theorem restoreFinish_script (r : Idx P) (s : State P) : (restoreFinish r s).script = s.script := rfl
@[simp] theorem restoreFinish_statusReads (r : Idx P) (s : State P) : (restoreFinish r s).statusReads = s.statusReads := rfl

/-! `buildFinish`. -/

@[simp] theorem buildFinish_PHASE (s : State P) : (buildFinish s).PHASE = .idle := rfl
@[simp] theorem buildFinish_CAUSE (s : State P) : (buildFinish s).CAUSE = s.CAUSE := rfl
@[simp] theorem buildFinish_TV (s : State P) : (buildFinish s).TV = true := rfl
@[simp] theorem buildFinish_ROOT (s : State P) : (buildFinish s).ROOT = s.PQ.headD NIL := rfl
@[simp] theorem buildFinish_NEXT (s : State P) : (buildFinish s).NEXT = s.NEXT := rfl
@[simp] theorem buildFinish_CUR (s : State P) : (buildFinish s).CUR = s.CUR := rfl
@[simp] theorem buildFinish_I (s : State P) : (buildFinish s).I = s.I := rfl
@[simp] theorem buildFinish_NODE (s : State P) : (buildFinish s).NODE = s.NODE := rfl
@[simp] theorem buildFinish_PQ (s : State P) : (buildFinish s).PQ = [] := rfl
@[simp] theorem buildFinish_SYMACC (s : State P) : (buildFinish s).SYMACC = s.SYMACC := rfl
@[simp] theorem buildFinish_NDIG (s : State P) : (buildFinish s).NDIG = s.NDIG := rfl
@[simp] theorem buildFinish_RSYM (s : State P) : (buildFinish s).RSYM = s.RSYM := rfl
@[simp] theorem buildFinish_CURB (s : State P) : (buildFinish s).CURB = s.CURB := rfl
@[simp] theorem buildFinish_DEPTH (s : State P) : (buildFinish s).DEPTH = s.DEPTH := rfl
@[simp] theorem buildFinish_CF (s : State P) : (buildFinish s).CF = s.CF := rfl
@[simp] theorem buildFinish_ASSIGNED (s : State P) : (buildFinish s).ASSIGNED = s.ASSIGNED := rfl
@[simp] theorem buildFinish_NPAIRS (s : State P) : (buildFinish s).NPAIRS = s.NPAIRS := rfl
@[simp] theorem buildFinish_STACK (s : State P) : (buildFinish s).STACK = s.STACK := rfl
@[simp] theorem buildFinish_SP (s : State P) : (buildFinish s).SP = s.SP := rfl
@[simp] theorem buildFinish_PATH (s : State P) : (buildFinish s).PATH = s.PATH := rfl
@[simp] theorem buildFinish_LEN (s : State P) : (buildFinish s).LEN = s.LEN := rfl
@[simp] theorem buildFinish_FREQ (s : State P) : (buildFinish s).FREQ = s.FREQ := rfl
@[simp] theorem buildFinish_IN_TEXT (s : State P) : (buildFinish s).IN_TEXT = s.IN_TEXT := rfl
@[simp] theorem buildFinish_IN_BITS (s : State P) : (buildFinish s).IN_BITS = s.IN_BITS := rfl
@[simp] theorem buildFinish_OUT_TEXT (s : State P) : (buildFinish s).OUT_TEXT = s.OUT_TEXT := rfl
@[simp] theorem buildFinish_OUT_PAIRS (s : State P) : (buildFinish s).OUT_PAIRS = s.OUT_PAIRS := rfl
@[simp] theorem buildFinish_OUT_SYMS (s : State P) : (buildFinish s).OUT_SYMS = s.OUT_SYMS := rfl
@[simp] theorem buildFinish_offer (s : State P) : (buildFinish s).offer = s.offer := rfl
@[simp] theorem buildFinish_script (s : State P) : (buildFinish s).script = s.script := rfl
@[simp] theorem buildFinish_statusReads (s : State P) : (buildFinish s).statusReads = s.statusReads := rfl

/-! `decodeStart`. -/

@[simp] theorem decodeStart_PHASE (s : State P) : (decodeStart s).PHASE = .dRun := rfl
@[simp] theorem decodeStart_CAUSE (s : State P) : (decodeStart s).CAUSE = s.CAUSE := rfl
@[simp] theorem decodeStart_TV (s : State P) : (decodeStart s).TV = s.TV := rfl
@[simp] theorem decodeStart_ROOT (s : State P) : (decodeStart s).ROOT = s.ROOT := rfl
@[simp] theorem decodeStart_NEXT (s : State P) : (decodeStart s).NEXT = s.NEXT := rfl
@[simp] theorem decodeStart_CUR (s : State P) : (decodeStart s).CUR = s.ROOT := rfl
@[simp] theorem decodeStart_I (s : State P) : (decodeStart s).I = s.I := rfl
@[simp] theorem decodeStart_NODE (s : State P) : (decodeStart s).NODE = s.NODE := rfl
@[simp] theorem decodeStart_PQ (s : State P) : (decodeStart s).PQ = s.PQ := rfl
@[simp] theorem decodeStart_SYMACC (s : State P) : (decodeStart s).SYMACC = s.SYMACC := rfl
@[simp] theorem decodeStart_NDIG (s : State P) : (decodeStart s).NDIG = s.NDIG := rfl
@[simp] theorem decodeStart_RSYM (s : State P) : (decodeStart s).RSYM = s.RSYM := rfl
@[simp] theorem decodeStart_CURB (s : State P) : (decodeStart s).CURB = s.CURB := rfl
@[simp] theorem decodeStart_DEPTH (s : State P) : (decodeStart s).DEPTH = s.DEPTH := rfl
@[simp] theorem decodeStart_CF (s : State P) : (decodeStart s).CF = s.CF := rfl
@[simp] theorem decodeStart_ASSIGNED (s : State P) : (decodeStart s).ASSIGNED = s.ASSIGNED := rfl
@[simp] theorem decodeStart_NPAIRS (s : State P) : (decodeStart s).NPAIRS = s.NPAIRS := rfl
@[simp] theorem decodeStart_STACK (s : State P) : (decodeStart s).STACK = s.STACK := rfl
@[simp] theorem decodeStart_SP (s : State P) : (decodeStart s).SP = s.SP := rfl
@[simp] theorem decodeStart_PATH (s : State P) : (decodeStart s).PATH = s.PATH := rfl
@[simp] theorem decodeStart_LEN (s : State P) : (decodeStart s).LEN = s.LEN := rfl
@[simp] theorem decodeStart_FREQ (s : State P) : (decodeStart s).FREQ = s.FREQ := rfl
@[simp] theorem decodeStart_IN_TEXT (s : State P) : (decodeStart s).IN_TEXT = s.IN_TEXT := rfl
@[simp] theorem decodeStart_IN_BITS (s : State P) : (decodeStart s).IN_BITS = s.IN_BITS := rfl
@[simp] theorem decodeStart_OUT_TEXT (s : State P) : (decodeStart s).OUT_TEXT = s.OUT_TEXT := rfl
@[simp] theorem decodeStart_OUT_PAIRS (s : State P) : (decodeStart s).OUT_PAIRS = s.OUT_PAIRS := rfl
@[simp] theorem decodeStart_OUT_SYMS (s : State P) : (decodeStart s).OUT_SYMS = s.OUT_SYMS := rfl
@[simp] theorem decodeStart_offer (s : State P) : (decodeStart s).offer = s.offer := rfl
@[simp] theorem decodeStart_script (s : State P) : (decodeStart s).script = s.script := rfl
@[simp] theorem decodeStart_statusReads (s : State P) : (decodeStart s).statusReads = s.statusReads := rfl

/-! `emitRecord`. -/

@[simp] theorem emitRecord_PHASE (x : Sym P) (p : List Bool) (s : State P) : (emitRecord x p s).PHASE = s.PHASE := rfl
@[simp] theorem emitRecord_CAUSE (x : Sym P) (p : List Bool) (s : State P) : (emitRecord x p s).CAUSE = s.CAUSE := rfl
@[simp] theorem emitRecord_TV (x : Sym P) (p : List Bool) (s : State P) : (emitRecord x p s).TV = s.TV := rfl
@[simp] theorem emitRecord_ROOT (x : Sym P) (p : List Bool) (s : State P) : (emitRecord x p s).ROOT = s.ROOT := rfl
@[simp] theorem emitRecord_NEXT (x : Sym P) (p : List Bool) (s : State P) : (emitRecord x p s).NEXT = s.NEXT := rfl
@[simp] theorem emitRecord_CUR (x : Sym P) (p : List Bool) (s : State P) : (emitRecord x p s).CUR = s.CUR := rfl
@[simp] theorem emitRecord_I (x : Sym P) (p : List Bool) (s : State P) : (emitRecord x p s).I = s.I := rfl
@[simp] theorem emitRecord_NODE (x : Sym P) (p : List Bool) (s : State P) : (emitRecord x p s).NODE = s.NODE := rfl
@[simp] theorem emitRecord_PQ (x : Sym P) (p : List Bool) (s : State P) : (emitRecord x p s).PQ = s.PQ := rfl
@[simp] theorem emitRecord_SYMACC (x : Sym P) (p : List Bool) (s : State P) : (emitRecord x p s).SYMACC = s.SYMACC := rfl
@[simp] theorem emitRecord_NDIG (x : Sym P) (p : List Bool) (s : State P) : (emitRecord x p s).NDIG = s.NDIG := rfl
@[simp] theorem emitRecord_RSYM (x : Sym P) (p : List Bool) (s : State P) : (emitRecord x p s).RSYM = s.RSYM := rfl
@[simp] theorem emitRecord_CURB (x : Sym P) (p : List Bool) (s : State P) : (emitRecord x p s).CURB = s.CURB := rfl
@[simp] theorem emitRecord_DEPTH (x : Sym P) (p : List Bool) (s : State P) : (emitRecord x p s).DEPTH = s.DEPTH := rfl
@[simp] theorem emitRecord_CF (x : Sym P) (p : List Bool) (s : State P) : (emitRecord x p s).CF = s.CF := rfl
@[simp] theorem emitRecord_ASSIGNED (x : Sym P) (p : List Bool) (s : State P) : (emitRecord x p s).ASSIGNED = s.ASSIGNED := rfl
@[simp] theorem emitRecord_NPAIRS (x : Sym P) (p : List Bool) (s : State P) : (emitRecord x p s).NPAIRS = s.NPAIRS := rfl
@[simp] theorem emitRecord_STACK (x : Sym P) (p : List Bool) (s : State P) : (emitRecord x p s).STACK = s.STACK := rfl
@[simp] theorem emitRecord_SP (x : Sym P) (p : List Bool) (s : State P) : (emitRecord x p s).SP = s.SP := rfl
@[simp] theorem emitRecord_PATH (x : Sym P) (p : List Bool) (s : State P) : (emitRecord x p s).PATH = s.PATH := rfl
@[simp] theorem emitRecord_LEN (x : Sym P) (p : List Bool) (s : State P) : (emitRecord x p s).LEN = s.LEN := rfl
@[simp] theorem emitRecord_FREQ (x : Sym P) (p : List Bool) (s : State P) : (emitRecord x p s).FREQ = s.FREQ := rfl
@[simp] theorem emitRecord_IN_TEXT (x : Sym P) (p : List Bool) (s : State P) : (emitRecord x p s).IN_TEXT = s.IN_TEXT := rfl
@[simp] theorem emitRecord_IN_BITS (x : Sym P) (p : List Bool) (s : State P) : (emitRecord x p s).IN_BITS = s.IN_BITS := rfl
@[simp] theorem emitRecord_OUT_TEXT (x : Sym P) (p : List Bool) (s : State P) : (emitRecord x p s).OUT_TEXT = s.OUT_TEXT ++ recordText x p := rfl
@[simp] theorem emitRecord_OUT_PAIRS (x : Sym P) (p : List Bool) (s : State P) : (emitRecord x p s).OUT_PAIRS = s.OUT_PAIRS ++ [(x, p)] := rfl
@[simp] theorem emitRecord_OUT_SYMS (x : Sym P) (p : List Bool) (s : State P) : (emitRecord x p s).OUT_SYMS = s.OUT_SYMS := rfl
@[simp] theorem emitRecord_offer (x : Sym P) (p : List Bool) (s : State P) : (emitRecord x p s).offer = s.offer := rfl
@[simp] theorem emitRecord_script (x : Sym P) (p : List Bool) (s : State P) : (emitRecord x p s).script = s.script := rfl
@[simp] theorem emitRecord_statusReads (x : Sym P) (p : List Bool) (s : State P) : (emitRecord x p s).statusReads = s.statusReads := rfl

end Sys2Proof.Machine
end

