-- ==== Sys2Proof/Laws/Steps.lean ====
section
/-! SUPPORT. What each shared operation of the meanings can do when it answers, said once: the wrappers of the three
formats, the queue, the pushes of the traversal, the engine's turn. -/

namespace Sys2Proof.Machine

variable {P : Params}

@[simp] theorem settle_ok (s : State P) : settle (.ok s) = .next s := rfl

@[simp] theorem settle_error (f : Fault) : settle (.error f : Op (State P)) = .fault f := rfl

/-- An operation settles to a next state exactly when it answers that state. -/
theorem settle_eq_next {o : Op (State P)} {t : State P} : settle o = .next t ↔ o = .ok t := by
  cases o <;> simp

/-- An operation never settles to a refusal. -/
theorem settle_ne_refused (o : Op (State P)) (r : Refusal) : settle o ≠ .refused r := by
  cases o <;> simp

/-- A command ends in a next state by being ignored outside IDLE or by its action in IDLE (R85). -/
theorem accept_eq_next {k : State P → Op (State P)} {s t : State P} :
    accept k s = .next t ↔ (s.PHASE = .idle ∧ k s = .ok t) ∨ (s.PHASE ≠ .idle ∧ t = s) := by
  unfold accept
  split
  · simp_all [settle_eq_next]
  · simp_all [eq_comm]

/-- A command is never refused by the model. -/
theorem accept_ne_refused (k : State P → Op (State P)) (s : State P) (r : Refusal) : accept k s ≠ .refused r := by
  unfold accept
  split
  · exact settle_ne_refused _ r
  · simp

/-- A character ends in a next state only in its phase, with its head consumed (R133). -/
theorem onChar_eq_next {p : Phase} {k : State P → Op (State P)} {s t : State P} :
    onChar p k s = .next t ↔
      s.PHASE = p ∧ ∃ c cs, s.IN_TEXT = some (c :: cs) ∧ k { s with IN_TEXT := some cs } = .ok t := by
  unfold onChar tinNext
  by_cases hp : s.PHASE = p
  · rcases h : s.IN_TEXT with _ | _ | ⟨c, cs⟩ <;> simp_all [settle_eq_next]
  · simp_all

/-- A decoder bit ends in a next state only in D_RUN with a bit to read: EMPTY_TREE leaves it, else it is consumed
(R182). -/
theorem onBit_eq_next {b : Bool} {s t : State P} :
    onBit b s = .next t ↔
      s.PHASE = .dRun ∧ ∃ x bs, s.IN_BITS = some (x :: bs) ∧
        ((s.ROOT = NIL ∧ t = raise .emptyTree s) ∨
          (s.ROOT ≠ NIL ∧ decodeRead b { s with IN_BITS := some bs } = .ok t)) := by
  unfold onBit bitNext
  by_cases hp : s.PHASE = .dRun
  · rcases h : s.IN_BITS with _ | _ | ⟨x, bs⟩
    · simp_all
    · simp_all
    · by_cases hr : s.ROOT = NIL
      · simp [hp, hr, eq_comm]
      · simp [hp, hr, settle_eq_next]
  · simp_all

/-! The queue. -/

@[simp] theorem mem_queueAdd {i j : Idx P} {q : List (Idx P)} : j ∈ queueAdd i q ↔ j = i ∨ j ∈ q := by
  induction q with
  | nil => simp [queueAdd]
  | cons x q ih =>
    simp only [queueAdd]
    split
    · simp
    · split
      · rename_i h
        subst h
        simp
      · simp only [List.mem_cons, ih]
        tauto

theorem length_queueAdd {i : Idx P} {q : List (Idx P)} (h : i ∉ q) : (queueAdd i q).length = q.length + 1 := by
  induction q with
  | nil => rfl
  | cons x q ih =>
    simp only [List.mem_cons, not_or] at h
    simp only [queueAdd]
    split
    · simp
    · simp [h.1, ih h.2]

/-- Adding a member keeps the written form of the set. -/
theorem queueWf_queueAdd {i : Idx P} {q : List (Idx P)} (h : queueWf q = true) : queueWf (queueAdd i q) = true := by
  simp only [queueWf, decide_eq_true_eq] at h ⊢
  induction q with
  | nil => simp [queueAdd]
  | cons x q ih =>
    have hq := List.pairwise_cons.mp h
    simp only [queueAdd]
    split
    · rename_i hi
      refine List.pairwise_cons.mpr ⟨fun y hy => ?_, h⟩
      rcases List.mem_cons.mp hy with rfl | hy
      · exact hi
      · exact BitVec.lt_trans hi (hq.1 y hy)
    · split
      · exact h
      · rename_i h1 h2
        refine List.pairwise_cons.mpr ⟨fun y hy => ?_, ih hq.2⟩
        rcases mem_queueAdd.mp hy with rfl | hy
        · bv_omega
        · exact hq.1 y hy

/-- Everything `PQ.insert` can do when it answers (R56). -/
theorem pqInsert_eq_ok {i : Idx P} {s t : State P} (h : pqInsert i s = .ok t) :
    t = { s with PQ := t.PQ } ∧ (∀ j, j ∈ t.PQ ↔ j = i ∨ j ∈ s.PQ) ∧ (queueWf s.PQ = true → queueWf t.PQ = true) := by
  unfold pqInsert at h
  split at h
  · rename_i hc
    simp only [Except.ok.injEq] at h
    subst h
    refine ⟨rfl, fun j => ?_, id⟩
    have : i ∈ s.PQ := by simpa using hc
    constructor
    · exact Or.inr
    · rintro (rfl | hj) <;> assumption
  · split at h
    · simp only [Except.ok.injEq] at h
      subst h
      exact ⟨rfl, fun j => by simp, fun hq => queueWf_queueAdd hq⟩
    · simp at h

/-- The keys of members come from their records (R56). -/
theorem keyOf_eq_ok {m : Memory P} {i : Idx P} {k : Key P} : keyOf m i = .ok k ↔ ∃ r, nodeRead m i = .ok r ∧ k = (r.W, i) := by
  unfold keyOf
  cases h : nodeRead m i <;> simp [bind, Except.bind, eq_comm]

/-- `leastKey` answers its first key or the key of a member. -/
theorem leastKey_mem {m : Memory P} {q : List (Idx P)} {b k : Key P} (h : leastKey m b q = .ok k) : k = b ∨ k.2 ∈ q := by
  induction q generalizing b with
  | nil =>
    simp only [leastKey, Except.ok.injEq] at h
    exact Or.inl h.symm
  | cons i q ih =>
    unfold leastKey at h
    cases hk : keyOf m i with
    | error f => simp [hk, bind, Except.bind] at h
    | ok k' =>
      obtain ⟨r, -, rfl⟩ := keyOf_eq_ok.mp hk
      simp only [hk, bind, Except.bind] at h
      rcases ih h with rfl | hm
      · split
        · exact Or.inr (by simp)
        · exact Or.inl rfl
      · exact Or.inr (List.mem_cons_of_mem _ hm)

/-- `extract_min` answers a member and the set without it. -/
theorem extractMin_eq_ok {m : Memory P} {q q' : List (Idx P)} {i : Idx P} (h : extractMin m q = .ok (i, q')) :
    i ∈ q ∧ q' = q.erase i := by
  cases q with
  | nil => simp [extractMin] at h
  | cons j q =>
    unfold extractMin at h
    cases hk : keyOf m j with
    | error f => simp [hk, bind, Except.bind] at h
    | ok k =>
      cases hl : leastKey m k q with
      | error f => simp [hk, hl, bind, Except.bind] at h
      | ok b =>
        simp only [hk, hl, bind, Except.bind, Except.ok.injEq, Prod.mk.injEq] at h
        obtain ⟨rfl, rfl⟩ := h
        obtain ⟨r, -, rfl⟩ := keyOf_eq_ok.mp hk
        refine ⟨?_, rfl⟩
        rcases leastKey_mem hl with rfl | hm
        · simp
        · exact List.mem_cons_of_mem _ hm

/-! SERIALIZE and RESTORE. -/

/-- Everything the pushes of the traversal can do when they answer (R162, R164). -/
theorem pushChildren_eq_ok {r : NodeRec P} {d : BitVec P.SYM_BITS} {s t : State P} :
    pushChildren r d s = .ok t ↔
      d.toNat ≠ P.MAX_CODE_LEN ∧ s.SP.toNat + 2 ≤ P.STACK_CAP ∧
        t = { s with
          STACK := cellPut (cellPut s.STACK s.SP.toNat { n := r.R, d := d + 1, b := true }) (s.SP.toNat + 1)
            { n := r.L, d := d + 1, b := false }
          SP := s.SP + 2 } := by
  unfold pushChildren
  split
  · simp_all
  · split
    · simp_all
    · simp_all [eq_comm]

/-- The end-of-table scan answers whether some record below the bound has exactly one child (R148). -/
theorem anyOneChild_eq_ok {m : Memory P} {n : Nat} {b : Bool} (h : anyOneChild m n = .ok b) :
    (∀ i, i < n → ∃ r, nodeRead m (BitVec.ofNat P.IDX_BITS i) = .ok r) ∧
      (b = true ↔ ∃ i r, i < n ∧ nodeRead m (BitVec.ofNat P.IDX_BITS i) = .ok r ∧ oneChild r = true) := by
  induction n generalizing b with
  | zero =>
    simp only [anyOneChild, Except.ok.injEq] at h
    subst h
    simp
  | succ n ih =>
    unfold anyOneChild at h
    cases hr : nodeRead m (BitVec.ofNat P.IDX_BITS n) with
    | error f => simp [hr, bind, Except.bind] at h
    | ok r =>
      cases hb : anyOneChild m n with
      | error f => simp [hr, hb, bind, Except.bind] at h
      | ok b' =>
        simp only [hr, hb, bind, Except.bind, Except.ok.injEq] at h
        obtain ⟨h1, h2⟩ := ih hb
        refine ⟨fun i hi => ?_, ?_⟩
        · rcases Nat.lt_succ_iff_lt_or_eq.mp hi with hi | rfl
          · exact h1 i hi
          · exact ⟨r, hr⟩
        · subst h
          simp only [Bool.or_eq_true, h2]
          constructor
          · rintro (ho | ⟨i, r', hi, hr', ho⟩)
            · exact ⟨n, r, Nat.lt_succ_self n, hr, ho⟩
            · exact ⟨i, r', Nat.lt_succ_of_lt hi, hr', ho⟩
          · rintro ⟨i, r', hi, hr', ho⟩
            rcases Nat.lt_succ_iff_lt_or_eq.mp hi with hi | rfl
            · exact Or.inr ⟨i, r', hi, hr', ho⟩
            · rw [hr] at hr'
              simp only [Except.ok.injEq] at hr'
              subst hr'
              exact Or.inl ho

/-- The top entry taken off: SP, LEN and PATH are all it writes (R162). -/
theorem popEntry_frame (e : StackEntry P) (s : State P) :
    popEntry e s = { s with SP := s.SP - 1, LEN := e.d, PATH := (popEntry e s).PATH } := by
  unfold popEntry
  split <;> rfl

/-! The turn. -/

/-- What `fetch` answers, by the head of the host's script. -/
theorem fetch_cases (s : State P) :
    (s.script = [] ∧ fetch s = (engineWork s, s)) ∨
    (∃ rest, s.script = .run :: rest ∧ fetch s = (engineWork s, { s with script := rest })) ∨
    (∃ w o rest, s.script = .writeCmd w o :: rest ∧
      fetch s = (.instr (decodeCmd w), { s with script := rest, offer := o })) ∨
    (∃ rest, s.script = .readStatus :: rest ∧ fetch s = (.internal .statusRead, { s with script := rest })) ∨
    (∃ rest, s.script = .reset :: rest ∧ fetch s = (.internal .blockReset, { s with script := rest })) := by
  unfold fetch
  rcases h : s.script with _ | ⟨e, rest⟩
  · simp
  · cases e <;> simp

/-- A step whose work is an instruction is exec of it. -/
theorem step_instr {s s1 : State} {i : Instr} (h : fetch s = (.instr i, s1)) : step s = exec i s1 := by
  simp only [step, h]

/-- A step whose work is no instruction. -/
theorem step_internal {s s1 : State} {k : Internal} (h : fetch s = (.internal k, s1)) : step s = runInternal k s1 := by
  simp only [step, h]

end Sys2Proof.Machine
end

