-- ==== Sys2Proof/Tests/Slice0.lean ====
section
/-! SUPPORT. The author's own tests: the WellFormed smoke, a word of the spec for every constructor, one or two steps per
instruction with results from spec/95_test_vectors.md or worked by hand from the cited rules, and a witness for the
hypotheses of every obligation. -/

namespace Sys2Proof.Tests

open Sys2Proof.Machine

/-! WellFormed: an ill-formed term for each check, refused. -/

theorem test_wf_refuses_digit_as_other : (Instr.symOther 0x30).wf = false ∧ (Instr.symOther 0x39).wf = false := by decide

theorem test_wf_refuses_lf_as_other : (Instr.symOther 0x0A).wf = false ∧ (Instr.bitsOther 0x0A).wf = false := by decide

theorem test_wf_refuses_bit_as_other : (Instr.bitsOther 0x30).wf = false ∧ (Instr.bitsOther 0x31).wf = false := by decide

theorem test_wf_accepts : (Instr.symOther 0x3A).wf = true ∧ (Instr.symOther 0x2F).wf = true ∧
    (Instr.bitsOther 0x32).wf = true ∧ Instr.build.wf = true := by decide

/-! Decoding: words written out from R81, R83, R86, R88 and R93. -/

theorem test_decode_cmd : decode .cmd 0b001 = .ok .build ∧ decode .cmd 0b010 = .ok .restore ∧
    decode .cmd 0b011 = .ok .serialize ∧ decode .cmd 0b100 = .ok .decode := by decide

theorem test_decode_reserved : decode .cmd 0b000 = .ok .reserved0 ∧ decode .cmd 0b101 = .ok .reserved5 ∧
    decode .cmd 0b110 = .ok .reserved6 ∧ decode .cmd 0b111 = .ok .reserved7 := by decide

theorem test_decode_bit : decode .bit 0 = .ok .bitL ∧ decode .bit 1 = .ok .bitR := by decide

theorem test_decode_digits_low : decode .symLine 0b00110000 = .ok .symDigit0 ∧
    decode .symLine 0b00110001 = .ok .symDigit1 ∧ decode .symLine 0b00110010 = .ok .symDigit2 ∧
    decode .symLine 0b00110011 = .ok .symDigit3 ∧ decode .symLine 0b00110100 = .ok .symDigit4 := by decide

theorem test_decode_digits_high : decode .symLine 0b00110101 = .ok .symDigit5 ∧
    decode .symLine 0b00110110 = .ok .symDigit6 ∧ decode .symLine 0b00110111 = .ok .symDigit7 ∧
    decode .symLine 0b00111000 = .ok .symDigit8 ∧ decode .symLine 0b00111001 = .ok .symDigit9 := by decide

/-- CR (`0x0D`) and `'-'` (`0x2D`) are no characters of the format (R88). -/
theorem test_decode_sym_line : decode .symLine 0b00001010 = .ok .symLf ∧
    decode .symLine 0x0D = .ok (.symOther 0x0D) ∧ decode .symLine 0x2D = .ok (.symOther 0x2D) ∧
    decode .symLine 0x3A = .ok (.symOther 0x3A) := by decide

/-- `0x32` is a digit on a symbol line and malformed on a bit-string line (R93). -/
theorem test_decode_bits_line : decode .bitsLine 0b00110000 = .ok .bits0 ∧ decode .bitsLine 0b00110001 = .ok .bits1 ∧
    decode .bitsLine 0b00001010 = .ok .bitsLf ∧ decode .bitsLine 0x32 = .ok (.bitsOther 0x32) := by decide

theorem test_decode_refuses : decode .cmd 8 = .error .widerThanCmd ∧ decode .bit 2 = .error .widerThanBit ∧
    decode .symLine 256 = .error .widerThanChar ∧ decode .bitsLine 256 = .error .widerThanChar := by decide

/-! States. -/

/-- The state an outcome goes on in. -/
def nextOf : Host.Outcome State Fault Refusal → Option State
  | .next s => some s
  | _ => none

/-- A frequency table of this hardware. -/
def counts (ps : List (Nat × Int)) : FreqTable := FreqTable.ofPairs ps

def leafRec (x : Sym) : NodeRec := { SYM := x, SV := true, W := 1, L := NIL, R := NIL }

/-- The tree `(5 6)` as BUILD stores it (V4). -/
def twoLeaves : State :=
  { State.reset with
    NODE := [(0, leafRec 5), (1, leafRec 6), (2, { SYM := 0, SV := false, W := 2, L := 0, R := 1 })]
    NEXT := 3, ROOT := 2, TV := true }

/-- The end state of V20: the tree `(0 (1 2))` as RESTORE stores it. -/
def v20 : State :=
  { State.reset with
    NODE := [(0, { SYM := 0, SV := false, W := 0, L := 1, R := 2 }), (1, { leafRec 0 with W := 0 }),
      (2, { SYM := 0, SV := false, W := 0, L := 3, R := 4 }), (3, { leafRec 1 with W := 0 }),
      (4, { leafRec 2 with W := 0 })]
    NEXT := 5, ROOT := 0, TV := true }

/-- The end state of V3: the single-leaf tree 97. -/
def oneLeaf : State := { State.reset with NODE := [(0, leafRec 97)], NEXT := 1, ROOT := 0, TV := true }

/-- The end state of V2: the empty tree. -/
def emptyTree : State := { State.reset with TV := true }

/-- A DECODE under way. -/
def decoding (s : State) (cur : Idx) (bs : List Bool) : State :=
  { s with PHASE := .dRun, CUR := cur, IN_BITS := some bs }

/-- A RESTORE on a symbol line, after the placeholder root. -/
def onSymLine (acc : BitVec 12) (digits : Bool) (cs : List Byte) : State :=
  { State.reset with
    PHASE := .rSym, NODE := [(0, blankNode)], NEXT := 1, CURB := 0, SYMACC := acc, NDIG := digits, IN_TEXT := some cs }

/-- A RESTORE on a bit-string line at the placeholder root, for symbol 7. -/
def onBitsLine (cs : List Byte) : State :=
  { State.reset with
    PHASE := .rBits, NODE := [(0, blankNode)], NEXT := 1, CURB := 0, RSYM := 7, IN_TEXT := some cs }

/-- A RESTORE on a bit-string line at the root of the tree under construction `"5\n0\n"` left (V27): the code `0` is
assigned. -/
def afterFive (cur : Idx) (cs : List Byte) : State :=
  { State.reset with
    PHASE := .rBits, NEXT := 2, CURB := cur, RSYM := 6, IN_TEXT := some cs
    NODE := [(0, { blankNode with L := 1 }), (1, { leafRec 5 with W := 0 })]
    ASSIGNED := (Vector.replicate 256 false).setIfInBounds 5 true, NPAIRS := 1 }

/-- The end of the input of that table. -/
def afterFiveEnd : State := { afterFive 0 [] with PHASE := .rSym }

/-- A BUILD scanning symbol `i` of a table with one count. -/
def scanning (i : BitVec 9) (c : Int) : State :=
  { State.reset with PHASE := .bScan, I := i, FREQ := some (counts [(i.toNat, c)]) }

/-- The queue of V1 at step 258: leaves 0 to 3 with weights 5, 2, 1, 1. -/
def merging : State :=
  { State.reset with
    PHASE := .bMerge, I := 256, NEXT := 4, PQ := [0, 1, 2, 3]
    NODE := [(0, { leafRec 65 with W := 5 }), (1, { leafRec 66 with W := 2 }), (2, leafRec 67), (3, leafRec 68)] }

/-- A SERIALIZE with one entry on the stack. -/
def walking (s : State) (e : StackEntry) : State := { s with PHASE := .sWalk, STACK := [(0, e)], SP := 1 }

/-! Commands (V40, V41, R85). -/

/-- V1 step 1: the table is bound, the previous tree dropped. -/
theorem test_build : (nextOf (exec .build twoLeaves)).map (fun t => (t.PHASE, t.TV)) = some (.bScan, false) ∧
    (nextOf (exec .build twoLeaves)).map (fun t => (t.NEXT, t.ROOT, t.NODE)) = some (0, NIL, []) := by decide

/-- R85: ignored while a command runs (V42). -/
theorem test_build_ignored : (nextOf (exec .build (decoding twoLeaves 2 []))).map (fun t => (t.PHASE, t.ROOT)) =
    some (.dRun, 2) := by decide

/-- V20 step 1. -/
theorem test_restore : (nextOf (exec .restore twoLeaves)).map (fun t => (t.PHASE, t.TV)) = some (.rSym, false) ∧
    (nextOf (exec .restore twoLeaves)).map (fun t => (t.NEXT, t.NODE, t.CURB)) = some (1, [(0, blankNode)], 0) := by
  decide

/-- V10 step 1, on the tree of V4. -/
theorem test_serialize : (nextOf (exec .serialize twoLeaves)).map (fun t => (t.PHASE, t.STACK, t.SP)) =
    some (.sWalk, [(0, { n := 2, d := 0, b := false })], 1) := by decide

/-- V41: no tree. -/
theorem test_serialize_no_tree : (nextOf (exec .serialize State.reset)).map (fun t => (t.PHASE, t.CAUSE, status t)) =
    some (.fault, .noTree, 0x07#8) := by decide

/-- V30 step 1. -/
theorem test_decode_starts : (nextOf (exec .decode v20)).map (fun t => (t.PHASE, t.CUR, t.IN_BITS)) =
    some (.dRun, 0, some []) := by decide

/-- V41: the bits are not bound. -/
theorem test_decode_no_tree : (nextOf (exec .decode State.reset)).map (fun t => (status t, t.IN_BITS)) =
    some (0x07#8, none) := by decide

/-- V40: a reserved word after a BUILD, TV stays 1. -/
theorem test_reserved0 : (nextOf (exec .reserved0 twoLeaves)).map status = some 0x18#8 := by decide

theorem test_reserved5 : (nextOf (exec .reserved5 State.reset)).map status = some 0x08#8 := by decide

theorem test_reserved6 : (nextOf (exec .reserved6 State.reset)).map status = some 0x08#8 := by decide

theorem test_reserved7 : (nextOf (exec .reserved7 State.reset)).map status = some 0x08#8 := by decide

/-! Decoder bits (V30, V34, V35). -/

/-- V30 step 2: the leaf 0 is emitted and the cursor is the root. -/
theorem test_bitL : (nextOf (exec .bitL (decoding v20 0 [false, true]))).map (fun t => (t.OUT_SYMS, t.CUR, t.IN_BITS)) =
    some ([0], 0, some [true]) := by decide

/-- V35: the bit is not read. -/
theorem test_bitL_empty_tree :
    (nextOf (exec .bitL (decoding emptyTree NIL [false, true]))).map (fun t => (status t, t.IN_BITS, t.OUT_SYMS)) =
    some (0x16#8, some [false, true], []) := by decide

/-- V30 step 3: node 2 is no leaf. -/
theorem test_bitR : (nextOf (exec .bitR (decoding v20 0 [true]))).map (fun t => (t.OUT_SYMS, t.CUR, t.IN_BITS)) =
    some ([], 2, some []) := by decide

/-- V34: the single-leaf tree. -/
theorem test_bitR_single_leaf : (nextOf (exec .bitR (decoding oneLeaf 0 [true]))).map (fun t => (t.OUT_SYMS, t.CUR)) =
    some ([97], 0) := by decide

/-! Characters of a symbol line (R134: `"255"` gives 2, 25, 255). -/

theorem test_digit0 : (nextOf (exec .symDigit0 (onSymLine 25 true [0x30]))).map (fun t => (t.SYMACC, t.PHASE)) =
    some (250, .rSym) := by decide

theorem test_digit1 : (nextOf (exec .symDigit1 (onSymLine 0 false [0x31]))).map (fun t => (t.SYMACC, t.NDIG)) =
    some (1, true) := by decide

theorem test_digit2 : (nextOf (exec .symDigit2 (onSymLine 0 false [0x32]))).map (fun t => (t.SYMACC, t.IN_TEXT)) =
    some (2, some []) := by decide

theorem test_digit3 : (nextOf (exec .symDigit3 (onSymLine 1 true [0x33]))).map (·.SYMACC) = some 13 := by decide

theorem test_digit4 : (nextOf (exec .symDigit4 (onSymLine 10 true [0x34]))).map (·.SYMACC) = some 104 := by decide

theorem test_digit5 : (nextOf (exec .symDigit5 (onSymLine 25 true [0x35]))).map (fun t => (t.SYMACC, t.CAUSE)) =
    some (255, .noFault) := by decide

/-- V25: `"256"` faults at its third digit. -/
theorem test_digit6 : (nextOf (exec .symDigit6 (onSymLine 25 true [0x36]))).map (fun t => (t.CAUSE, t.PHASE)) =
    some (.fmtSymbol, .fault) := by decide

theorem test_digit7 : (nextOf (exec .symDigit7 (onSymLine 0 true [0x37]))).map (·.SYMACC) = some 7 := by decide

theorem test_digit8 : (nextOf (exec .symDigit8 (onSymLine 6 true [0x38]))).map (·.SYMACC) = some 68 := by decide

/-- The greatest value the register takes: 2559 (R100 row 5). -/
theorem test_digit9 : (nextOf (exec .symDigit9 (onSymLine 255 true [0x39]))).map (fun t => (t.SYMACC, t.CAUSE)) =
    some (2559, .fmtSymbol) := by decide

/-- V20 step 7. -/
theorem test_symLf : (nextOf (exec .symLf (onSymLine 65 true [0x0A]))).map (fun t => (t.RSYM, t.PHASE, t.CURB)) =
    some (65, .rBits, 0) := by decide +kernel

/-- V25: an empty symbol line. -/
theorem test_symLf_empty : (nextOf (exec .symLf (onSymLine 0 false [0x0A, 0x30]))).map (fun t => (status t, t.IN_TEXT)) =
    some (0x01#8, some [0x30]) := by decide

/-- V25: `"-1\n0\n"` faults at its first character. -/
theorem test_symOther : (nextOf (exec (.symOther 0x2D) (onSymLine 0 false [0x2D]))).map (fun t => (status t, t.IN_TEXT)) =
    some (0x01#8, some []) := by decide

/-! Characters of a bit-string line (V20, V26, V27). -/

/-- V20 step 4: node 1 is made and linked. -/
theorem test_bits0 : (nextOf (exec .bits0 (onBitsLine [0x30]))).map (fun t => (t.NODE, t.CURB, t.NEXT, t.DEPTH)) =
    some ([(0, { blankNode with L := 1 }), (1, blankNode)], 1, 2, 1) := by decide

/-- V28(d): the store is full. -/
theorem test_bits0_full : (nextOf (exec .bits0 { onBitsLine [0x30] with NEXT := 511 })).map (fun t => (status t, t.NEXT)) =
    some (0x02#8, 511) := by decide

/-- V27 row 1: stepping out of an assigned node sets CF. -/
theorem test_bits1_conflict : (nextOf (exec .bits1 (afterFive 1 [0x31]))).map (fun t => (t.CF, t.PHASE, t.CURB)) =
    some (true, .rBits, 2) := by decide

/-- V28(a): the 256th bit of a line. -/
theorem test_bits1_too_long : (nextOf (exec .bits1 { onBitsLine [0x31] with DEPTH := 255 })).map status =
    some 0x02#8 := by decide

/-- V20 step 5. -/
theorem test_bitsLf : (nextOf (exec .bitsLf (onBitsLine [0x0A]))).map (fun t => (t.NODE, t.CF, t.NPAIRS, t.PHASE)) =
    some ([(0, { SYM := 7, SV := true, W := 0, L := NIL, R := NIL })], false, 1, .rSym) := by decide

/-- V27 row 3: equal codes. -/
theorem test_bitsLf_conflict : (nextOf (exec .bitsLf (afterFive 1 [0x0A]))).map (fun t => (t.CF, t.NPAIRS)) =
    some (true, 2) := by decide

/-- V26: `"5\n02..."` faults at the `'2'`. -/
theorem test_bitsOther : (nextOf (exec (.bitsOther 0x32) (onBitsLine [0x32]))).map status = some 0x02#8 := by decide

/-! Engine steps. -/

/-- V1 step 67: leaf 65 with count 5 is node 0. -/
theorem test_scan : (nextOf (step (scanning 65 5))).map (fun t => (t.NODE, t.PQ, t.I)) =
    some ([(0, { SYM := 65, SV := true, W := 5, L := NIL, R := NIL })], [0], 66) := by decide +kernel

/-- V2: a negative count makes nothing; the last symbol ends the scan. -/
theorem test_scan_negative : (nextOf (step (scanning 255 (-2147483648)))).map (fun t => (t.NODE, t.PHASE)) =
    some ([], .bMerge) := by decide +kernel

/-- V1 step 258: nodes 2 and 3 merge into node 4. -/
theorem test_merge : (nextOf (step merging)).map (fun t => (cellGet t.NODE 4, t.PQ)) =
    some (some { SYM := 0, SV := false, W := 2, L := 2, R := 3 }, [0, 1, 4]) := by decide

/-- V10 step 4, on the tree of V4: leaf 5 at code `0` writes `"5\n0\n"`. -/
theorem test_walk_leaf :
    (nextOf (step (walking twoLeaves { n := 0, d := 1, b := false }))).map (fun t => (t.OUT_TEXT, t.OUT_PAIRS, t.SP)) =
    some ([0x35, 0x0A, 0x30, 0x0A], [(5, [false])], 0) := by decide +kernel

/-- V27: `"5\n0\n"` is incomplete. -/
theorem test_table_incomplete : (nextOf (step afterFiveEnd)).map status = some 0x04#8 := by decide

/-- V31 step 4: truncation. -/
theorem test_truncated : (nextOf (step (decoding v20 2 []))).map status = some 0x15#8 := by decide

/-- V13: symbol 255 is spelled `"255"`, symbol 0 `"0"`. -/
theorem test_dec : dec (255 : Sym) = [0x32, 0x35, 0x35] ∧ dec (0 : Sym) = [0x30] ∧ dec (10 : Sym) = [0x31, 0x30] := by decide

/-- A word of the table runs as the first instruction after reset. -/
theorem test_fetch_word : (nextOf (step (State.reset.withFetchWord 8 0x35))).map (fun t => (t.SYMACC, t.PHASE)) =
    some (5, .rSym) ∧ (nextOf (step (State.reset.withFetchWord 3 1))).map (·.PHASE) = some .bScan := by decide

/-! Witnesses: for every obligation with hypotheses, a state and operands that meet them together, one for each clause
where the clauses differ. -/

theorem hyps_StepRunsDecoded :
    (({ twoLeaves with script := [.writeCmd 1 Offer.empty] } : State).script = .writeCmd 1 Offer.empty :: [] ∧
      decode .cmd (1#3).toNat = .ok .build) ∧
    (EngineTurn (onSymLine 0 false [0x30]) (onSymLine 0 false [0x30]) ∧
      (onSymLine 0 false [0x30]).IN_TEXT = some (0x30 :: []) ∧ decode .symLine (0x30#8).toNat = .ok .symDigit0) ∧
    (EngineTurn (onBitsLine [0x30]) (onBitsLine [0x30]) ∧ (onBitsLine [0x30]).IN_TEXT = some (0x30 :: []) ∧
      decode .bitsLine (0x30#8).toNat = .ok .bits0) ∧
    (EngineTurn (decoding v20 0 [true]) (decoding v20 0 [true]) ∧ (decoding v20 0 [true]).IN_BITS = some (true :: []) ∧
      decode .bit true.toNat = .ok .bitR) :=
  ⟨⟨rfl, rfl⟩, ⟨.inl ⟨rfl, rfl⟩, rfl, rfl⟩, ⟨.inl ⟨rfl, rfl⟩, rfl, rfl⟩, ⟨.inl ⟨rfl, rfl⟩, rfl, rfl⟩⟩

/-- The engine has the turn with a `run` at the head of the script too. -/
theorem hyps_EngineTurn_run : EngineTurn { State.reset with script := [.run, .reset] }
    { State.reset with script := [.reset] } := .inr ⟨rfl, rfl⟩

theorem hyps_ResetFromAnyState : ({ decoding v20 2 [] with script := [.reset] } : State).script = .reset :: [] := rfl

theorem hyps_IdleDoesNothing : EngineTurn v20 v20 ∧ v20.PHASE = .idle := ⟨.inl ⟨rfl, rfl⟩, rfl⟩

theorem hyps_StatusReadFollowsLayout : ({ v20 with script := [.readStatus] } : State).script = .readStatus :: [] := rfl

theorem hyps_CommandAcceptance :
    (∀ w : BitVec 3, ({ v20 with script := [.writeCmd w Offer.empty] } : State).script = .writeCmd w Offer.empty :: []) ∧
    v20.PHASE = .idle ∧ v20.TV = true ∧ State.reset.PHASE = .idle ∧ State.reset.TV = false ∧
    (decoding v20 0 []).PHASE ≠ .idle ∧ 0b101#3 ∉ [0b001#3, 0b010#3, 0b011#3, 0b100#3] := by
  refine ⟨fun w => rfl, ?_⟩
  decide

theorem hyps_starts : State.reset.PHASE = .idle ∧ v20.PHASE = .idle ∧ v20.TV = true ∧ v20.ROOT ≠ NIL ∧
    emptyTree.PHASE = .idle ∧ emptyTree.TV = true ∧ emptyTree.ROOT = NIL := by decide

theorem hyps_ReservedWordsFault : Instr.reserved5 ∈ reservedInstrs ∧ State.reset.PHASE = .idle ∧
    (decoding v20 0 []).PHASE ≠ .idle := by decide

theorem hyps_NoTreeRefusesBindingNothing : Instr.decode ∈ [Instr.serialize, Instr.decode] ∧ State.reset.PHASE = .idle ∧
    State.reset.TV = false := by decide

theorem hyps_CommandIgnoredOutsideIdle : Instr.serialize.format = .cmd ∧ (scanning 1 0).PHASE ≠ .idle := by decide

theorem hyps_CommandFrame : Instr.serialize.format = .cmd ∧ ∃ t, exec .serialize v20 = .next t := ⟨rfl, _, rfl⟩

/-- The last symbol, with a positive count and with the least count. -/
theorem hyps_BuildScanStep :
    (EngineTurn (scanning 255 5) (scanning 255 5) ∧ (scanning 255 5).PHASE = .bScan ∧
      (scanning 255 5).FREQ = some (counts [(255, 5)]) ∧
      (counts [(255, 5)]).toList[(scanning 255 5).I.toNat]? = some 5 ∧ 0 < (5 : Count).toInt ∧
      (scanning 255 5).NEXT.toNat < hw.NODE_CAP ∧ (scanning 255 5).PQ.length < hw.PQ_CAP ∧
      ∀ i ∈ (scanning 255 5).PQ, i.toNat < (scanning 255 5).NEXT.toNat) ∧
    ((scanning 255 (-2147483648)).FREQ = some (counts [(255, -2147483648)]) ∧
      (counts [(255, -2147483648)]).toList[(scanning 255 (-2147483648)).I.toNat]? = some 0x80000000 ∧
      (0x80000000 : Count).toInt ≤ 0) := by
  refine ⟨⟨.inl ⟨rfl, rfl⟩, rfl, rfl, ?_, ?_⟩, rfl, ?_⟩ <;> decide +kernel

theorem merging_readable : ∀ i ∈ merging.PQ, i.toNat < merging.NEXT.toNat ∧ ∃ r, nodeRead merging.NODE i = .ok r := by
  intro i hi
  simp only [merging, List.mem_cons, List.not_mem_nil, or_false] at hi
  rcases hi with rfl | rfl | rfl | rfl <;> exact ⟨by decide, _, rfl⟩

theorem hyps_ExtractMinTakesLeastKey : merging.PQ ≠ [] ∧ merging.PQ.Nodup ∧
    ∀ i ∈ merging.PQ, ∃ r, nodeRead merging.NODE i = .ok r :=
  ⟨by decide, by decide, fun i hi => (merging_readable i hi).2⟩

theorem hyps_BuildMergeStep : EngineTurn merging merging ∧ merging.PHASE = .bMerge ∧ 2 ≤ merging.PQ.length ∧
    merging.PQ.length ≤ hw.PQ_CAP ∧ merging.PQ.Nodup ∧
    (∀ i ∈ merging.PQ, i.toNat < merging.NEXT.toNat ∧ ∃ r, nodeRead merging.NODE i = .ok r) ∧ merging.NEXT.toNat < hw.NODE_CAP :=
  ⟨.inl ⟨rfl, rfl⟩, rfl, by decide, by decide, by decide, merging_readable, by decide⟩

theorem hyps_BuildFinishStep : EngineTurn { merging with PQ := [3] } { merging with PQ := [3] } ∧
    ({ merging with PQ := [3] } : State).PHASE = .bMerge ∧ ({ merging with PQ := [3] } : State).PQ = [3] ∧
    EngineTurn { merging with PQ := [] } { merging with PQ := [] } ∧ ({ merging with PQ := [] } : State).PQ = [] :=
  ⟨.inl ⟨rfl, rfl⟩, rfl, rfl, .inl ⟨rfl, rfl⟩, rfl⟩

theorem hyps_BuildComputesForestMerge : State.reset.PHASE = .idle ∧ State.reset.script = [] := by decide

/-- V4 row 2: the table of two equal counts, with a code that is no full tree. -/
theorem hyps_BuildIsOptimal : hw.ok ∧ (([(7, [true, false]), (2, [false])] : List (Nat × List Bool)).map Prod.fst).Perm
    (positives (counts [(7, 3), (2, 3)])) ∧ isPrefixCode [(7, [true, false]), (2, [false])] := by
  refine ⟨by decide, by decide +kernel, ?_⟩
  unfold isPrefixCode
  decide

/-- The two sides of the alphabet's bound: 255 and 256. -/
theorem hyps_DigitAccumulates : (Instr.symDigit5, 5) ∈ digitInstrs ∧ (onSymLine 25 true [0x35]).PHASE = .rSym ∧
    (onSymLine 25 true [0x35]).IN_TEXT = some (0x35 :: []) ∧ (onSymLine 25 true [0x35]).SYMACC.toNat < hw.N_SYM ∧
    25 * 10 + 5 < hw.N_SYM ∧ (Instr.symDigit6, 6) ∈ digitInstrs ∧ hw.N_SYM ≤ 25 * 10 + 6 := by decide

theorem hyps_SymbolLineEnds :
    ((onSymLine 5 false [0x0A]).PHASE = .rSym ∧ (onSymLine 5 false [0x0A]).IN_TEXT = some (0x0A :: []) ∧
      (onSymLine 5 false [0x0A]).NDIG = false) ∧
    ((onSymLine 255 true [0x0A]).NDIG = true ∧
      (onSymLine 255 true [0x0A]).ASSIGNED.toList[(onSymLine 255 true [0x0A]).SYMACC.toNat]? = some false) ∧
    ({ afterFiveEnd with SYMACC := 5, NDIG := true } : State).ASSIGNED.toList[5]? = some true := by decide +kernel

theorem hyps_OtherCharactersFault : (onSymLine 0 false [0x2D]).IN_TEXT = some (0x2D :: []) ∧
    (onSymLine 0 false [0x2D]).PHASE = .rSym ∧ (onBitsLine [0x32]).IN_TEXT = some (0x32 :: []) ∧
    (onBitsLine [0x32]).PHASE = .rBits := by decide

/-- The longest line, a child present, the store full, a child made. -/
theorem hyps_BitCharacterDescends : (Instr.bits0, false) ∈ bitCharInstrs ∧ (Instr.bits1, true) ∈ bitCharInstrs ∧
    (onBitsLine [0x30]).PHASE = .rBits ∧ (onBitsLine [0x30]).IN_TEXT = some (0x30 :: []) ∧
    nodeRead (onBitsLine [0x30]).NODE (onBitsLine [0x30]).CURB = .ok blankNode ∧
    ({ onBitsLine [0x30] with DEPTH := 255 } : State).DEPTH.toNat = hw.MAX_CODE_LEN ∧
    (onBitsLine [0x30]).DEPTH.toNat ≠ hw.MAX_CODE_LEN ∧
    nodeRead (afterFive 0 [0x30]).NODE (afterFive 0 [0x30]).CURB = .ok { blankNode with L := 1 } ∧ (1 : Idx) ≠ NIL ∧
    ({ onBitsLine [0x30] with NEXT := 511 } : State).NEXT.toNat = hw.NODE_CAP ∧
    (onBitsLine [0x30]).NEXT.toNat < hw.NODE_CAP ∧ (blankNode : NodeRec).L = NIL ∧
    (onBitsLine [0x30]).CURB.toNat ≠ (onBitsLine [0x30]).NEXT.toNat := by
  refine ⟨by decide, by decide, rfl, rfl, rfl, rfl, ?_, rfl, ?_, rfl, ?_, rfl, ?_⟩ <;> decide

theorem hyps_BitLineEnds : (onBitsLine [0x0A]).PHASE = .rBits ∧ (onBitsLine [0x0A]).IN_TEXT = some (0x0A :: []) ∧
    nodeRead (onBitsLine [0x0A]).NODE (onBitsLine [0x0A]).CURB = .ok blankNode := ⟨rfl, rfl, rfl⟩

theorem hyps_InputEndsInsideLine : EngineTurn (onSymLine 5 true []) (onSymLine 5 true []) ∧
    (onSymLine 5 true []).IN_TEXT = some [] ∧ (onSymLine 5 true []).PHASE = .rSym ∧ (onSymLine 5 true []).NDIG = true ∧
    EngineTurn (onBitsLine []) (onBitsLine []) ∧ (onBitsLine []).IN_TEXT = some [] ∧ (onBitsLine []).PHASE = .rBits :=
  ⟨.inl ⟨rfl, rfl⟩, rfl, rfl, rfl, .inl ⟨rfl, rfl⟩, rfl, rfl⟩

/-- No record; a conflict; an incomplete table; a complete one (V23). -/
theorem hyps_TableEnds :
    (EngineTurn (onSymLine 0 false []) (onSymLine 0 false []) ∧ (onSymLine 0 false []).IN_TEXT = some [] ∧
      (onSymLine 0 false []).PHASE = .rSym ∧ (onSymLine 0 false []).NDIG = false ∧ (onSymLine 0 false []).NPAIRS = 0) ∧
    (afterFiveEnd.IN_TEXT = some [] ∧ afterFiveEnd.PHASE = .rSym ∧ afterFiveEnd.NDIG = false ∧
      afterFiveEnd.NPAIRS ≠ 0 ∧ ({ afterFiveEnd with CF := true } : State).CF = true ∧ afterFiveEnd.CF = false) ∧
    (∀ i, i < afterFiveEnd.NEXT.toNat → ∃ r, nodeRead afterFiveEnd.NODE (BitVec.ofNat 9 i) = .ok r) ∧
    (∃ i r, i < afterFiveEnd.NEXT.toNat ∧ nodeRead afterFiveEnd.NODE (BitVec.ofNat 9 i) = .ok r ∧
      ((r.L = NIL ∧ r.R ≠ NIL) ∨ (r.L ≠ NIL ∧ r.R = NIL))) ∧
    (∀ i r, i < oneLeaf.NEXT.toNat → nodeRead oneLeaf.NODE (BitVec.ofNat 9 i) = .ok r → (r.L = NIL ↔ r.R = NIL)) := by
  refine ⟨⟨.inl ⟨rfl, rfl⟩, rfl, rfl, rfl, rfl⟩, by decide, ?_, ?_, ?_⟩
  · intro i hi
    have hi : i < 2 := hi
    interval_cases i <;> exact ⟨_, rfl⟩
  · exact ⟨0, { blankNode with L := 1 }, by decide, rfl, .inr ⟨by decide, rfl⟩⟩
  · intro i r hi hr
    have hi : i < 1 := hi
    obtain rfl : i = 0 := by omega
    have : r = leafRec 97 := by simpa [oneLeaf, nodeRead, cellGet, NIL, eq_comm] using hr
    subst this
    decide

theorem hyps_CharacterFrame : Instr.symDigit0.format = .symLine ∧ Instr.bits0.format = .bitsLine ∧
    (∃ t, exec .symDigit0 (onSymLine 0 false [0x30]) = .next t) ∧ ∃ t, exec .bits0 (onBitsLine [0x30]) = .next t :=
  ⟨rfl, rfl, ⟨_, rfl⟩, _, rfl⟩

theorem hyps_FaultedRestoreLeavesNoTree : FlagInv (onBitsLine []) ∧ InRestore (onBitsLine []) ∧ NoReset (onBitsLine []) ∧
    ∃ t, step (onBitsLine []) = .next t ∧ t.PHASE = .fault := ⟨by decide, by decide, by decide, _, rfl, rfl⟩

/-- The table of V20, whose symbols are distinct, and the empty table. -/
theorem hyps_RestoreInvertsSerialize :
    let a : AnyTree := some (.node (.leaf 0) (.node (.leaf 1) (.leaf 2)))
    textOf (serTree a) = [0x30, 0x0A, 0x30, 0x0A, 0x31, 0x0A, 0x31, 0x30, 0x0A, 0x32, 0x0A, 0x31, 0x31, 0x0A] ∧
      ((serTree a).map Prod.fst).Nodup ∧ State.reset.PHASE = .idle ∧ State.reset.script = [] ∧
      State.reset.offer.text = textOf (serTree (none : AnyTree)) := by decide

theorem hyps_WalkEmitsLeaf :
    let e : StackEntry := { n := 0, d := 1, b := false }
    EngineTurn (walking twoLeaves e) (walking twoLeaves e) ∧ (walking twoLeaves e).PHASE = .sWalk ∧
      (walking twoLeaves e).SP ≠ 0 ∧ stackAt (walking twoLeaves e) ((walking twoLeaves e).SP.toNat - 1) = .ok e ∧
      nodeRead (walking twoLeaves e).NODE e.n = .ok (leafRec 5) ∧ (leafRec 5).L = NIL ∧ (leafRec 5).R = NIL :=
  ⟨.inl ⟨rfl, rfl⟩, rfl, by decide, rfl, rfl, rfl, rfl⟩

theorem hyps_WalkPushesChildren :
    let e : StackEntry := { n := 2, d := 254, b := false }
    EngineTurn (walking twoLeaves e) (walking twoLeaves e) ∧ (walking twoLeaves e).PHASE = .sWalk ∧
      (walking twoLeaves e).SP ≠ 0 ∧ (walking twoLeaves e).SP.toNat < hw.STACK_CAP ∧
      stackAt (walking twoLeaves e) ((walking twoLeaves e).SP.toNat - 1) = .ok e ∧
      nodeRead (walking twoLeaves e).NODE e.n = .ok { SYM := 0, SV := false, W := 2, L := 0, R := 1 } ∧
      ¬ ((0 : Idx) = NIL ∧ (1 : Idx) = NIL) ∧ e.d.toNat < hw.MAX_CODE_LEN :=
  ⟨.inl ⟨rfl, rfl⟩, rfl, by decide, by decide, rfl, rfl, by decide, by decide⟩

theorem hyps_WalkEndsOnEmptyStack : EngineTurn { v20 with PHASE := .sWalk } { v20 with PHASE := .sWalk } ∧
    ({ v20 with PHASE := .sWalk } : State).PHASE = .sWalk ∧ ({ v20 with PHASE := .sWalk } : State).SP = 0 :=
  ⟨.inl ⟨rfl, rfl⟩, rfl, rfl⟩

/-- The tree of V4. -/
def fiveSix : AnyTree := some (.node (.leaf 5) (.leaf 6))

/-- The stored tree of V4 is `(5 6)`, and the empty tree is NIL. -/
theorem twoLeaves_is_tree : treeOf twoLeaves.NODE fiveSix twoLeaves.ROOT :=
  ⟨_, rfl, rfl, ⟨_, rfl, rfl, rfl⟩, ⟨_, rfl, rfl, rfl⟩⟩

theorem hyps_SerializeComputesSer : twoLeaves.PHASE = .idle ∧ twoLeaves.script = [] ∧ twoLeaves.TV = true ∧
    treeOf twoLeaves.NODE fiveSix twoLeaves.ROOT ∧
    (∀ t, fiveSix = some t → depthOf t ≤ hw.MAX_CODE_LEN) ∧
    treeOf emptyTree.NODE none emptyTree.ROOT := by
  refine ⟨rfl, rfl, rfl, twoLeaves_is_tree, ?_, rfl⟩
  rintro t ⟨⟩
  decide

theorem hyps_BitFollowsTree : (Instr.bitR, true) ∈ bitInstrs ∧ (Instr.bitL, false) ∈ bitInstrs ∧
    (decoding v20 0 [true]).PHASE = .dRun ∧ (decoding v20 0 [true]).IN_BITS = some (true :: []) ∧
    nodeRead v20.NODE v20.ROOT = .ok { SYM := 0, SV := false, W := 0, L := 1, R := 2 } ∧
    nodeRead v20.NODE 2 = .ok { SYM := 0, SV := false, W := 0, L := 3, R := 4 } ∧
    nodeRead v20.NODE 1 = .ok { leafRec 0 with W := 0 } ∧ ¬ ((3 : Idx) = NIL ∧ (4 : Idx) = NIL) :=
  ⟨by decide, by decide, rfl, rfl, rfl, rfl, rfl, by decide⟩

theorem hyps_BitOnSingleLeaf : (Instr.bitL, false) ∈ bitInstrs ∧ (decoding oneLeaf 0 [false]).PHASE = .dRun ∧
    (decoding oneLeaf 0 [false]).IN_BITS = some (false :: []) ∧
    nodeRead oneLeaf.NODE oneLeaf.ROOT = .ok (leafRec 97) ∧ (leafRec 97).L = NIL ∧ (leafRec 97).R = NIL :=
  ⟨by decide, rfl, rfl, rfl, rfl, rfl⟩

theorem hyps_BitOnEmptyTree : (Instr.bitR, true) ∈ bitInstrs ∧ (decoding emptyTree NIL [true]).PHASE = .dRun ∧
    (decoding emptyTree NIL [true]).IN_BITS = some (true :: []) ∧ (decoding emptyTree NIL [true]).ROOT = NIL :=
  ⟨by decide, rfl, rfl, rfl⟩

theorem hyps_BitsExhausted : EngineTurn (decoding v20 2 []) (decoding v20 2 []) ∧ (decoding v20 2 []).PHASE = .dRun ∧
    (decoding v20 2 []).IN_BITS = some [] ∧ (decoding v20 2 []).CUR ≠ (decoding v20 2 []).ROOT ∧
    EngineTurn (decoding v20 0 []) (decoding v20 0 []) ∧ (decoding v20 0 []).CUR = (decoding v20 0 []).ROOT :=
  ⟨.inl ⟨rfl, rfl⟩, rfl, rfl, by decide, .inl ⟨rfl, rfl⟩, rfl⟩

theorem hyps_DecoderOnlyReadsTree : (Instr.bitL, false) ∈ bitInstrs ∧ ∃ t, exec .bitL (decoding v20 0 [false]) = .next t :=
  ⟨by decide, _, rfl⟩

theorem hyps_DecodeComputesDecode : twoLeaves.PHASE = .idle ∧ twoLeaves.script = [] ∧ twoLeaves.TV = true ∧
    treeOf twoLeaves.NODE fiveSix twoLeaves.ROOT ∧
    (decodeTree fiveSix [true]).2 = .noFault ∧
    (decodeTree (none : AnyTree) [true]).2 ≠ .noFault := ⟨rfl, rfl, rfl, twoLeaves_is_tree, rfl, by decide⟩

/-- The state V31 ends in. -/
def truncated : State := { decoding v20 2 [] with PHASE := .fault, CAUSE := .streamTruncated }

theorem hyps_FaultIsFinal : truncated.PHASE = .fault ∧ NoReset truncated ∧
    NoReset { truncated with script := [.writeCmd 1 Offer.empty] } := by decide

theorem hyps_CauseIsRecordedOnce : FlagInv truncated ∧ truncated.CAUSE ≠ .noFault ∧ NoReset truncated ∧
    ∃ t, step truncated = .next t := ⟨by decide, by decide, by decide, _, rfl⟩

theorem hyps_whole_machine : NoReset merging ∧ (∃ t, step merging = .next t) ∧ NoReset v20 ∧ ¬ InBuild v20 ∧
    ¬ InRestore v20 ∧ step v20 = .next v20 := ⟨by decide, ⟨_, rfl⟩, by decide, by decide, by decide, rfl⟩

/-- Node 2 of the tree `(0 (1 2))` has children, and the bit-string `1` leads to it from the root (R187). -/
theorem decoding_cursor : cursorOk (decoding v20 2 [true]) := by
  refine ⟨fun h => absurd h (by decide), fun root hr => ?_⟩
  obtain rfl : root = { SYM := 0, SV := false, W := 0, L := 1, R := 2 } := by
    simpa [decoding, v20, nodeRead, cellGet, NIL, eq_comm] using hr
  exact ⟨fun h => absurd h (by decide), fun _ => ⟨⟨_, rfl, by decide⟩, [true], rfl⟩⟩

/-- On the single-leaf tree and on the empty tree the cursor is the root (R187). -/
theorem decoding_cursor_special : cursorOk (decoding oneLeaf 0 []) ∧ cursorOk (decoding emptyTree NIL []) := by
  refine ⟨⟨fun _ => by contradiction, fun root hr => ?_⟩, fun _ => rfl, fun root hr => ?_⟩
  · obtain rfl : root = leafRec 97 := by
      simpa [decoding, oneLeaf, nodeRead, cellGet, NIL, eq_comm] using hr
    exact ⟨fun _ => rfl, fun h => absurd h (by decide)⟩
  · simp [decoding, emptyTree, State.reset, resetAt, nodeRead] at hr

/-- A DECODE under way on the tree `(0 (1 2))`, its cursor at the inner node, meets every invariant. -/
theorem decoding_invariants :
    ShapeInv (decoding v20 2 [true]) ∧ OwnInv (decoding v20 2 [true]) ∧ (decoding v20 2 [true]).TV = true := by
  refine ⟨⟨?_, ?_, ?_, ?_, ?_, fun _ => decoding_cursor⟩, ⟨?_, ?_, ?_⟩, rfl⟩ <;> decide +kernel

/-- A SERIALIZE under way, two entries on its stack, meets the invariant of the store. -/
theorem walking_store : StoreInv { twoLeaves with
    PHASE := .sWalk, STACK := [(0, { n := 1, d := 1, b := true }), (1, { n := 0, d := 1, b := false })], SP := 2 } := by
  decide +kernel

theorem hyps_StepKeeps : StoreInv (decoding v20 2 [true]) ∧ FlagInv (decoding v20 2 [true]) ∧
    ∃ t, step (decoding v20 2 [true]) = .next t :=
  ⟨decoding_invariants.1.1, decoding_invariants.1.2.1, _, rfl⟩

/-- A RESTORE inside a bit-string line meets them too. -/
theorem restoring_invariants : ShapeInv (afterFive 0 [0x31]) ∧ OwnInv (afterFive 0 [0x31]) ∧
    ∃ t, step (afterFive 0 [0x31]) = .next t := by
  refine ⟨⟨?_, ?_, ?_, ?_, ?_, fun h => absurd h (by decide)⟩, ⟨?_, ?_, ?_⟩, _, rfl⟩ <;> decide +kernel

/-- A BUILD before its first merge meets them too. -/
theorem merging_invariants : ShapeInv merging ∧ OwnInv merging := by
  refine ⟨⟨?_, ?_, ?_, ?_, ?_, fun h => absurd h (by decide)⟩, ⟨?_, ?_, ?_⟩⟩ <;> decide +kernel

theorem hyps_DecodeNeverStops : EngineTurn (decoding v20 2 [true]) (decoding v20 2 [true]) ∧
    (decoding v20 2 [true]).PHASE = .dRun ∧ (decoding v20 2 [true]).IN_BITS ≠ none :=
  ⟨.inl ⟨rfl, rfl⟩, rfl, by decide⟩

/-! Other parameters of R8: an alphabet of one symbol, and one of three with counts of 4 bits. -/

/-- R8's table: with three symbols 2 bits a symbol, 5 records, 3 bits an index; with one symbol still 1 bit a symbol. -/
theorem test_params :
    Params.of 3 4 = { N_SYM := 3, SYM_BITS := 2, COUNT_BITS := 4, WEIGHT_BITS := 5, NODE_CAP := 5, IDX_BITS := 3
                      MAX_CODE_LEN := 2, PQ_CAP := 3, STACK_CAP := 3 } ∧ (Params.of 3 4).ok ∧ (Params.of 1 2).SYM_BITS = 1 ∧
    (Params.of 1 2).NODE_CAP = 1 ∧ (Params.of 1 2).MAX_CODE_LEN = 0 := by decide

/-- R112, R116: counts 7, -8 and 1 of three symbols: the leaves 0 and 2 and their merge, the lighter leaf on the left. -/
theorem test_build_three_symbols :
    (let s : State (Params.of 3 4) := { resetAt (Params.of 3 4) with
      script := [.writeCmd 1 { freq := FreqTable.ofPairs [(0, 7), (1, -8), (2, 1)], text := [], bits := [] }] }
     match (machineAt (Params.of 3 4)).run 6 s with
     | .next (t : State (Params.of 3 4)) => subTree t.NODE 3 t.ROOT
     | _ => none) = some (.node (.leaf 2) (.leaf 0)) := by decide

/-- R134, R140 with one symbol: the symbol 1 is no member of the alphabet, and a bit-string line has no room for a bit. -/
theorem test_restore_one_symbol :
    (match execAt .symDigit1 { resetAt (Params.of 1 2) with PHASE := .rSym, IN_TEXT := some [0x31] } with
     | .next t => t.CAUSE
     | _ => .noFault) = .fmtSymbol ∧
    (match execAt .bits0 { resetAt (Params.of 1 2) with PHASE := .rBits, IN_TEXT := some [0x30], CURB := 0 } with
     | .next t => t.CAUSE
     | _ => .noFault) = .fmtBitstring := by decide

end Sys2Proof.Tests
end

section
/-! PROOFS. The store of a state with a valid tree holds a tree (R13, R33). Links lead one way (R35), so some measure of
the index falls along every link, and an induction on it builds the tree below any written record. -/

namespace Sys2Proof.Machine

variable {P : Params}

/-- Both links of a finished record that is no leaf are children of it (R33). -/
theorem finished_inner_kids {r : NodeRec P} (h : finished r) (hl : isLeaf r = false) : r.L ∈ kids r ∧ r.R ∈ kids r := by
  obtain ⟨-, hone⟩ := h
  have hne : r.L ≠ NIL ∧ r.R ≠ NIL := by
    by_cases hL : r.L = NIL <;> by_cases hR : r.R = NIL <;> simp_all [isLeaf, oneChild]
  simp [kids, hne]

/-- A child of a record is not `NIL`. -/
theorem kids_ne_nil {r : NodeRec P} {k : Idx P} (h : k ∈ kids r) : k ≠ NIL := by
  simpa using (List.mem_filter.mp h).2

/-- A child of a record is one of its links. -/
theorem kids_eq_link {r : NodeRec P} {k : Idx P} (h : k ∈ kids r) : k = r.L ∨ k = r.R := by
  simpa using (List.mem_filter.mp h).1

/-- The children of a stored record are written (R36). -/
theorem kids_written {s : State P} (hs : StoreInv s) {c : Nat × NodeRec P} (hc : c ∈ s.NODE) {k : Idx P}
    (hk : k ∈ kids c.2) : k.toNat < s.NEXT.toNat := by
  obtain ⟨-, -, hlinks, -⟩ := hs
  obtain ⟨hL, hR, -⟩ := hlinks c hc
  rcases kids_eq_link hk with rfl | rfl
  · exact hL.resolve_left (kids_ne_nil hk)
  · exact hR.resolve_left (kids_ne_nil hk)

/-- A ROOT that is not `NIL` is written (R36). -/
theorem root_written {s : State P} (hs : StoreInv s) (h : s.ROOT ≠ NIL) : s.ROOT.toNat < s.NEXT.toNat := by
  obtain ⟨-, -, -, -, ⟨hroot, -⟩, -⟩ := hs
  exact hroot.resolve_left h

/-- A record below NEXT can be read, and is listed at its index (R36). -/
theorem nodeRead_of_written {s : State P} (hP : P.ok) (hs : StoreInv s) {i : Idx P} (hi : i.toNat < s.NEXT.toNat) :
    ∃ r, nodeRead s.NODE i = .ok r ∧ (i.toNat, r) ∈ s.NODE := by
  obtain ⟨hkeys, hcap, -⟩ := hs
  obtain ⟨-, -, -, -, -, -, hidx, -⟩ := hP
  have hne : i ≠ NIL := by
    rintro rfl
    rw [nil_toNat] at hi
    omega
  obtain ⟨r, hr⟩ := cellGet_of_key (m := s.NODE) (i := i.toNat) (by simpa [hkeys] using hi)
  exact ⟨r, nodeRead_eq_ok.mpr ⟨hne, hr⟩, cellGet_mem hr⟩

/-- Links that lead one way (R35) lower a measure of the index: the index itself where they lead to older records, its
distance from NEXT where they lead to younger ones. -/
theorem exists_measure_falling_along_links {s : State P} (hs : StoreInv s) (h : LinksDown s.NODE ∨ LinksUp s.NODE) :
    ∃ μ : Nat → Nat, ∀ c ∈ s.NODE, ∀ k ∈ kids c.2, μ k.toNat < μ c.1 := by
  rcases h with hdown | hup
  · exact ⟨id, hdown⟩
  · refine ⟨(s.NEXT.toNat - ·), fun c hc k hk => ?_⟩
    have := hup c hc k hk
    have := kids_written hs hc hk
    change s.NEXT.toNat - k.toNat < s.NEXT.toNat - c.1
    omega

/-- In a store of finished records whose links lead one way, every written index is the root of a stored tree (R13). -/
theorem exists_treeAt_of_written {s : State P} (hP : P.ok) (hs : StoreInv s) (hfin : ∀ c ∈ s.NODE, finished c.2)
    (hway : LinksDown s.NODE ∨ LinksUp s.NODE) {i : Idx P} (hi : i.toNat < s.NEXT.toNat) : ∃ t, treeAt s.NODE t i := by
  obtain ⟨μ, hμ⟩ := exists_measure_falling_along_links hs hway
  induction hn : μ i.toNat using Nat.strong_induction_on generalizing i with
  | _ n ih =>
    subst hn
    obtain ⟨r, hr, hmem⟩ := nodeRead_of_written hP hs hi
    have hchild : ∀ k ∈ kids r, ∃ t, treeAt s.NODE t k := fun k hk =>
      ih _ (hμ _ hmem k hk) (kids_written hs hmem hk) rfl
    cases hl : isLeaf r with
    | true => exact ⟨.leaf r.SYM, r, hr, hl, rfl⟩
    | false =>
      obtain ⟨hL, hR⟩ := finished_inner_kids (hfin _ hmem) hl
      obtain ⟨a, ha⟩ := hchild _ hL
      obtain ⟨b, hb⟩ := hchild _ hR
      exact ⟨.node a b, r, hr, hl, ha, hb⟩

/-- With the invariants and TV 1, ROOT stands for an abstract tree (R13, R33), for any parameters of R8. -/
theorem exists_treeOf_root {s : State P} (hP : P.ok) (hshape : ShapeInv s) (hown : OwnInv s) (htv : s.TV = true) :
    ∃ a : AnyTree P, treeOf s.NODE a s.ROOT := by
  obtain ⟨hs, -, -, hfin, -⟩ := hshape
  obtain ⟨-, -, -, -, -, hway, -⟩ := hown
  by_cases hroot : s.ROOT = NIL
  · exact ⟨none, hroot⟩
  · have hfinished := hfin (.inr ⟨htv, hroot⟩)
    obtain ⟨t, ht⟩ := exists_treeAt_of_written hP hs hfinished hway (root_written hs hroot)
    exact ⟨some t, ht⟩

/-- Settles O58: NIL stands for the empty tree, and a ROOT that is a written record is the root of a stored tree, by
induction along the links. -/
theorem validTreeIsATree : Obligations.ValidTreeIsATree := by
  unfold Obligations.ValidTreeIsATree
  intro s hshape hown htv
  exact exists_treeOf_root hw_ok hshape hown htv

end Sys2Proof.Machine
end

section
/-! PROOFS. What one step can do, said once for any parameters of R8: every next state that is not reset's is the result
of a `Move`. The invariants and the safety statements of file 10_state.md are then case splits over `Move`. -/

namespace Sys2Proof.Machine

variable {P : Params}

/-- An operation in two parts answers exactly when both parts do. -/
theorem op_bind_eq_ok {α β : Type} {o : Op α} {f : α → Op β} {b : β} :
    (o >>= f) = .ok b ↔ ∃ a, o = .ok a ∧ f a = .ok b := by
  cases o <;> simp [bind, Except.bind]

/-! The ports and the queue. -/

/-- A count that can be read is the count of a symbol (R60). -/
theorem freqAt_lt {s : State P} {i : Nat} {c : Count P} (h : freqAt s i = .ok c) : i < P.N_SYM := by
  unfold freqAt at h
  split at h
  · cases h
  · rename_i f _
    split at h
    · rename_i hget
      simpa using (List.getElem?_eq_some_iff.mp hget).1
    · cases h

/-- `q'` is the set `q` with `i` in it, as `PQ.insert` leaves it (R38, R56). -/
structure Enqueued (i : Idx P) (q q' : List (Idx P)) : Prop where
  mem : ∀ j, j ∈ q' ↔ j = i ∨ j ∈ q
  form : queueWf q = true → queueWf q' = true
  length : q.length ≤ P.PQ_CAP → q'.length ≤ P.PQ_CAP

/-- `PQ.insert` keeps a queue within its capacity (R38). -/
theorem pqInsert_length {i : Idx P} {s t : State P} (h : pqInsert i s = .ok t) (hs : s.PQ.length ≤ P.PQ_CAP) :
    t.PQ.length ≤ P.PQ_CAP := by
  unfold pqInsert at h
  split at h
  · obtain rfl := Except.ok.inj h
    exact hs
  · rename_i hmem
    split at h
    · obtain rfl := Except.ok.inj h
      rw [length_queueAdd (by simpa using hmem)]
      assumption
    · cases h

/-- An answer of `PQ.insert` is its state with a member added to the queue. -/
theorem exists_enqueued_of_pqInsert {i : Idx P} {s t : State P} (h : pqInsert i s = .ok t) :
    ∃ q, Enqueued i s.PQ q ∧ t = { s with PQ := q } := by
  obtain ⟨hframe, hmem, hform⟩ := pqInsert_eq_ok h
  exact ⟨t.PQ, ⟨hmem, hform, pqInsert_length h⟩, hframe⟩

/-! The moves. -/

/-- The results a step can have at `s`, but for reset's, each with what holds when it is taken. One constructor stands
for all faults of RESTORE, which write no more than the registers it names. -/
inductive Move (s : State P) : State P → Prop
  /-- No step, an ignored command or a STATUS read: only the host's side can change (R85, R96, R101). -/
  | rest (o : Offer P) (sc : List (HostEvent P)) (sr : List (BitVec 8)) :
      Move s { s with offer := o, script := sc, statusReads := sr }
  /-- NO_TREE or BAD_CMD (R83, R85). -/
  | refuse (hp : s.PHASE = .idle) {f : Cause} (hf : f ≠ .noFault) : Move s (raise f s)
  /-- BUILD.start (R111). -/
  | buildStart (hp : s.PHASE = .idle) : Move s (buildStart (bindFreq s))
  /-- BUILD.scan of a count that is not positive (R112). -/
  | scanSkip (hp : s.PHASE = .bScan) (hI : s.I.toNat < P.N_SYM) : Move s (scanNext s)
  /-- BUILD.scan of a positive count (R112, R113). -/
  | scanLeaf (hp : s.PHASE = .bScan) (hI : s.I.toNat < P.N_SYM) {c : Count P} (hc : countPositive c = true)
      (hcap : s.NEXT.toNat < P.NODE_CAP) {q : List (Idx P)} (hq : Enqueued (s.NEXT.setWidth P.IDX_BITS) s.PQ q) :
      Move s (scanNext { s with
        NODE := cellPut s.NODE s.NEXT.toNat (leafNode s.I c), NEXT := s.NEXT + 1, PQ := q })
  /-- BUILD.merge (R114). -/
  | merge (hp : s.PHASE = .bMerge) {a b : Idx P} {q1 q2 q : List (Idx P)} {ra rb : NodeRec P}
      (ha : extractMin s.NODE s.PQ = .ok (a, q1)) (hb : extractMin s.NODE q1 = .ok (b, q2))
      (hra : nodeRead s.NODE a = .ok ra) (hrb : nodeRead s.NODE b = .ok rb)
      (hcap : s.NEXT.toNat < P.NODE_CAP) (hq : Enqueued (s.NEXT.setWidth P.IDX_BITS) q2 q) :
      Move s { s with
        NODE := cellPut s.NODE s.NEXT.toNat (mergedNode ra.W rb.W a b), NEXT := s.NEXT + 1, PQ := q }
  /-- BUILD.finish (R116). -/
  | buildFinish (hp : s.PHASE = .bMerge) (hq : s.PQ.length < 2) : Move s (buildFinish s)
  /-- RESTORE.start (R131). -/
  | restoreStart (hp : s.PHASE = .idle) (hcap : 0 < P.NODE_CAP) :
      Move s (restoreClear { dropTree (bindText s) with NODE := [(0, blankNode)], NEXT := 1 })
  /-- RESTORE.sym_digit with the symbol in range (R134). -/
  | digit (hp : s.PHASE = .rSym) {c : Byte} {cs : List Byte} (hin : s.IN_TEXT = some (c :: cs)) {d : Nat}
      (hacc : (s.SYMACC * 10 + BitVec.ofNat (P.SYM_BITS + 4) d).toNat < P.N_SYM) :
      Move s { s with
        IN_TEXT := some cs, SYMACC := s.SYMACC * 10 + BitVec.ofNat (P.SYM_BITS + 4) d, NDIG := true }
  /-- RESTORE.sym_lf with a symbol not yet assigned (R135). -/
  | symLf (hp : s.PHASE = .rSym) {c : Byte} {cs : List Byte} (hin : s.IN_TEXT = some (c :: cs)) (hd : s.NDIG = true)
      (hfree : s.ASSIGNED.toList[s.SYMACC.toNat]? = some false) : Move s (symAccept { s with IN_TEXT := some cs })
  /-- RESTORE.bit down a link that is there (R140). -/
  | bitDown (hp : s.PHASE = .rBits) {c : Byte} {cs : List Byte} (hin : s.IN_TEXT = some (c :: cs))
      (hd : s.DEPTH.toNat ≠ P.MAX_CODE_LEN) {r : NodeRec P} (hr : nodeRead s.NODE s.CURB = .ok r) {b : Bool}
      (hc : childOf b r ≠ NIL) :
      Move s (descend (childOf b r) { s with IN_TEXT := some cs, CF := cfOnDescent s.CF r })
  /-- RESTORE.bit down a link it makes (R140, R142). -/
  | bitGrow (hp : s.PHASE = .rBits) {c : Byte} {cs : List Byte} (hin : s.IN_TEXT = some (c :: cs))
      (hd : s.DEPTH.toNat ≠ P.MAX_CODE_LEN) {r r' : NodeRec P} (hr : nodeRead s.NODE s.CURB = .ok r) {b : Bool}
      (hc : childOf b r = NIL) (hcap : s.NEXT.toNat < P.NODE_CAP)
      (hr' : nodeRead (cellPut s.NODE s.NEXT.toNat blankNode) s.CURB = .ok r') :
      Move s (descend (s.NEXT.setWidth P.IDX_BITS) { s with
        IN_TEXT := some cs, CF := cfOnDescent s.CF r, NEXT := s.NEXT + 1
        NODE := cellPut (cellPut s.NODE s.NEXT.toNat blankNode) s.CURB.toNat
          (withChild b r' (s.NEXT.setWidth P.IDX_BITS)) })
  /-- RESTORE.bits_lf (R143). -/
  | bitsLf (hp : s.PHASE = .rBits) {c : Byte} {cs : List Byte} (hin : s.IN_TEXT = some (c :: cs)) {r : NodeRec P}
      (hr : nodeRead s.NODE s.CURB = .ok r) :
      Move s (recordDone { s with
        IN_TEXT := some cs, CF := cfOnAssign s.CF r
        NODE := cellPut s.NODE s.CURB.toNat { r with SV := true, SYM := s.RSYM } })
  /-- RESTORE.end on a table with no record (R148). -/
  | tableEmpty (hp : s.PHASE = .rSym) (hn : s.NPAIRS = 0) : Move s (restoreFinish NIL s)
  /-- RESTORE.end on a complete table (R148). -/
  | tableDone (hp : s.PHASE = .rSym) (hn : s.NPAIRS ≠ 0) (hcf : s.CF = false)
      (hone : anyOneChild s.NODE s.NEXT.toNat = .ok false) : Move s (restoreFinish 0 s)
  /-- Any fault of RESTORE (R134 to R148, R154). -/
  | restoreFault (hp : InRestore s) {f : Cause} (hf : f ≠ .noFault) (text : Option (List Byte))
      (acc : BitVec (P.SYM_BITS + 4)) (digits cf : Bool) :
      Move s (raise f { s with IN_TEXT := text, SYMACC := acc, NDIG := digits, CF := cf })
  /-- SERIALIZE.start on the empty tree (R161). -/
  | walkStartEmpty (hp : s.PHASE = .idle) (hv : s.TV = true) (hroot : s.ROOT = NIL) :
      Move s { s with SP := 0, LEN := 0, PHASE := .sWalk }
  /-- SERIALIZE.start with a root (R161). -/
  | walkStart (hp : s.PHASE = .idle) (hv : s.TV = true) (hroot : s.ROOT ≠ NIL) :
      Move s { s with
        LEN := 0, STACK := cellPut s.STACK 0 { n := s.ROOT, d := 0, b := false }, SP := 1, PHASE := .sWalk }
  /-- SERIALIZE.walk at a leaf (R162). -/
  | walkLeaf (hp : s.PHASE = .sWalk) (hsp : s.SP ≠ 0) {e : StackEntry P}
      (he : cellGet s.STACK (s.SP.toNat - 1) = some e) {r : NodeRec P} (hr : nodeRead s.NODE e.n = .ok r)
      (hl : isLeaf r = true) :
      Move s (emitRecord r.SYM (pathBits (popEntry e s))
        { s with SP := s.SP - 1, LEN := e.d, PATH := (popEntry e s).PATH })
  /-- SERIALIZE.walk at a node with children (R162, R164). -/
  | walkInner (hp : s.PHASE = .sWalk) (hsp : s.SP ≠ 0) {e : StackEntry P}
      (he : cellGet s.STACK (s.SP.toNat - 1) = some e) {r : NodeRec P} (hr : nodeRead s.NODE e.n = .ok r)
      (hl : isLeaf r = false) (hd : e.d.toNat ≠ P.MAX_CODE_LEN) (hcap : (s.SP - 1).toNat + 2 ≤ P.STACK_CAP) :
      Move s { s with
        SP := s.SP - 1 + 2, LEN := e.d, PATH := (popEntry e s).PATH
        STACK := cellPut (cellPut s.STACK (s.SP - 1).toNat { n := r.R, d := e.d + 1, b := true })
          ((s.SP - 1).toNat + 1) { n := r.L, d := e.d + 1, b := false } }
  /-- SERIALIZE.walk on the empty stack (R165). -/
  | walkEnd (hp : s.PHASE = .sWalk) (hsp : s.SP = 0) : Move s { s with PHASE := .idle }
  /-- DECODE.start (R181). -/
  | decodeStart (hp : s.PHASE = .idle) (hv : s.TV = true) : Move s (decodeStart (bindBits s))
  /-- A fault of DECODE (R183, R186). -/
  | decodeFault (hp : s.PHASE = .dRun) {f : Cause} (hf : f ≠ .noFault) : Move s (raise f s)
  /-- DECODE.single (R185). -/
  | bitSingle (hp : s.PHASE = .dRun) {x : Bool} {bs : List Bool} (hin : s.IN_BITS = some (x :: bs)) {root : NodeRec P}
      (hroot : nodeRead s.NODE s.ROOT = .ok root) (hl : isLeaf root = true) :
      Move s (sinkPut root.SYM { s with IN_BITS := some bs })
  /-- DECODE.bit to a leaf (R184). -/
  | bitLeaf (hp : s.PHASE = .dRun) {x : Bool} {bs : List Bool} (hin : s.IN_BITS = some (x :: bs))
      {root cur r : NodeRec P} (hroot : nodeRead s.NODE s.ROOT = .ok root) (hinner : isLeaf root = false)
      (hcur : nodeRead s.NODE s.CUR = .ok cur) {b : Bool} (hr : nodeRead s.NODE (childOf b cur) = .ok r)
      (hl : isLeaf r = true) : Move s { sinkPut r.SYM { s with IN_BITS := some bs } with CUR := s.ROOT }
  /-- DECODE.bit to a node with children (R184). -/
  | bitInner (hp : s.PHASE = .dRun) {x : Bool} {bs : List Bool} (hin : s.IN_BITS = some (x :: bs))
      {root cur r : NodeRec P} (hroot : nodeRead s.NODE s.ROOT = .ok root) (hinner : isLeaf root = false)
      (hcur : nodeRead s.NODE s.CUR = .ok cur) {b : Bool} (hr : nodeRead s.NODE (childOf b cur) = .ok r)
      (hl : isLeaf r = false) : Move s { s with IN_BITS := some bs, CUR := childOf b cur }
  /-- DECODE.end with the cursor at the root (R183). -/
  | decodeEnd (hp : s.PHASE = .dRun) (hcur : s.CUR = s.ROOT) : Move s { s with PHASE := .idle }

/-! Each meaning and each engine step is a move. -/

theorem buildScan_move {s t : State P} (hp : s.PHASE = .bScan) (h : buildScan s = .ok t) : Move s t := by
  obtain ⟨c, hc, h⟩ := op_bind_eq_ok.mp h
  obtain ⟨s1, hs1, h⟩ := op_bind_eq_ok.mp h
  obtain rfl := Except.ok.inj h
  unfold scanCount at hs1
  split at hs1
  · rename_i hpos
    obtain ⟨⟨n, s2⟩, halloc, hins⟩ := op_bind_eq_ok.mp hs1
    obtain ⟨hcap, rfl, rfl⟩ := alloc_eq_ok.mp halloc
    obtain ⟨q, hq, rfl⟩ := exists_enqueued_of_pqInsert hins
    exact .scanLeaf hp (freqAt_lt hc) hpos hcap hq
  · obtain rfl := Except.ok.inj hs1
    exact .scanSkip hp (freqAt_lt hc)

theorem buildMerge_move {s t : State P} (hp : s.PHASE = .bMerge) (h : buildMerge s = .ok t) : Move s t := by
  obtain ⟨⟨a, q1⟩, ha, h⟩ := op_bind_eq_ok.mp h
  obtain ⟨⟨b, q2⟩, hb, h⟩ := op_bind_eq_ok.mp h
  obtain ⟨ra, hra, h⟩ := op_bind_eq_ok.mp h
  obtain ⟨rb, hrb, h⟩ := op_bind_eq_ok.mp h
  obtain ⟨⟨n, s1⟩, halloc, hins⟩ := op_bind_eq_ok.mp h
  obtain ⟨hcap, rfl, rfl⟩ := alloc_eq_ok.mp halloc
  obtain ⟨q, hq, rfl⟩ := exists_enqueued_of_pqInsert hins
  exact .merge hp ha hb hra hrb hcap hq

theorem restoreStart_move {s t : State P} (hp : s.PHASE = .idle) (h : restoreStart (bindText s) = .ok t) :
    Move s t := by
  obtain ⟨⟨i, s1⟩, halloc, h⟩ := op_bind_eq_ok.mp h
  obtain ⟨hcap, rfl, rfl⟩ := alloc_eq_ok.mp halloc
  obtain rfl := Except.ok.inj h
  simpa [cellPut] using Move.restoreStart hp (by simpa using hcap)

theorem symDigit_move {s t : State P} {d : Nat} (hp : s.PHASE = .rSym) {c : Byte} {cs : List Byte}
    (hin : s.IN_TEXT = some (c :: cs)) (h : symDigit d { s with IN_TEXT := some cs } = .ok t) : Move s t := by
  obtain rfl := Except.ok.inj h
  split
  · exact .restoreFault (.inl hp) (by decide) _ _ _ _
  · rename_i hacc
    exact .digit hp hin (Nat.lt_of_not_le hacc)

theorem symLf_move {s t : State P} (hp : s.PHASE = .rSym) {c : Byte} {cs : List Byte}
    (hin : s.IN_TEXT = some (c :: cs)) (h : symLf { s with IN_TEXT := some cs } = .ok t) : Move s t := by
  unfold symLf at h
  split at h
  · obtain rfl := Except.ok.inj h
    exact .restoreFault (.inl hp) (by decide) _ _ _ _
  · rename_i hd
    split at h
    · cases h
    · obtain rfl := Except.ok.inj h
      exact .restoreFault (.inl hp) (by decide) _ _ _ _
    · rename_i hfree
      obtain rfl := Except.ok.inj h
      exact .symLf hp hin (by simpa using hd) hfree

theorem restoreBit_move {s t : State P} {b : Bool} (hp : s.PHASE = .rBits) {c : Byte} {cs : List Byte}
    (hin : s.IN_TEXT = some (c :: cs)) (h : restoreBit b { s with IN_TEXT := some cs } = .ok t) : Move s t := by
  unfold restoreBit at h
  split at h
  · obtain rfl := Except.ok.inj h
    exact .restoreFault (.inr hp) (by decide) _ _ _ _
  · rename_i hd
    obtain ⟨r, hr, h⟩ := op_bind_eq_ok.mp h
    dsimp only at h
    split at h
    · rename_i hnil
      split at h
      · obtain rfl := Except.ok.inj h
        exact .restoreFault (.inr hp) (by decide) _ _ _ _
      · obtain ⟨⟨i, s2⟩, hmake, h⟩ := op_bind_eq_ok.mp h
        obtain ⟨⟨j, s3⟩, halloc, hmake⟩ := op_bind_eq_ok.mp hmake
        obtain ⟨hcap, rfl, rfl⟩ := alloc_eq_ok.mp halloc
        obtain ⟨r', hr', hmake⟩ := op_bind_eq_ok.mp hmake
        obtain ⟨rfl, rfl⟩ := Prod.mk.inj (Except.ok.inj hmake)
        obtain rfl := Except.ok.inj h
        exact .bitGrow hp hin hd hr hnil hcap hr'
    · rename_i hchild
      obtain rfl := Except.ok.inj h
      exact .bitDown hp hin hd hr hchild

theorem bitsLf_move {s t : State P} (hp : s.PHASE = .rBits) {c : Byte} {cs : List Byte}
    (hin : s.IN_TEXT = some (c :: cs)) (h : bitsLf { s with IN_TEXT := some cs } = .ok t) : Move s t := by
  obtain ⟨r, hr, h⟩ := op_bind_eq_ok.mp h
  obtain rfl := Except.ok.inj h
  exact .bitsLf hp hin hr

theorem symEof_move {s t : State P} (hp : s.PHASE = .rSym) (h : symEof s = .ok t) : Move s t := by
  unfold symEof restoreEnd at h
  split at h
  · obtain rfl := Except.ok.inj h
    exact .restoreFault (.inl hp) (by decide) _ _ _ _
  split at h
  · rename_i hn
    obtain rfl := Except.ok.inj h
    exact .tableEmpty hp hn
  rename_i hn
  split at h
  · obtain rfl := Except.ok.inj h
    exact .restoreFault (.inl hp) (by decide) _ _ _ _
  rename_i hcf
  obtain ⟨bad, hbad, h⟩ := op_bind_eq_ok.mp h
  obtain rfl := Except.ok.inj h
  cases bad with
  | true => exact .restoreFault (.inl hp) (by decide) _ _ _ _
  | false => exact .tableDone hp hn (by simpa using hcf) hbad

theorem serializeStart_move {s : State P} (hp : s.PHASE = .idle) (hv : s.TV = true) : Move s (serializeStart s) := by
  unfold serializeStart
  split
  · exact .walkStartEmpty hp hv ‹_›
  · exact .walkStart hp hv ‹_›

theorem serializeWalk_move {s t : State P} (hp : s.PHASE = .sWalk) (h : serializeWalk s = .ok t) : Move s t := by
  unfold serializeWalk at h
  split at h
  · obtain rfl := Except.ok.inj h
    exact .walkEnd hp ‹_›
  rename_i hsp
  obtain ⟨e, he, h⟩ := op_bind_eq_ok.mp h
  obtain ⟨r, hr, h⟩ := op_bind_eq_ok.mp h
  have he := stackAt_eq_ok.mp he
  replace hr : nodeRead s.NODE e.n = .ok r := by rwa [nodeAt, popEntry_frame] at hr
  split at h
  · rename_i hl
    obtain rfl := Except.ok.inj h
    have hm := Move.walkLeaf hp hsp he hr hl
    rwa [← popEntry_frame] at hm
  · rename_i hl
    obtain ⟨hd, hcap, rfl⟩ := pushChildren_eq_ok.mp h
    have hm := Move.walkInner hp hsp he hr (by simpa using hl) hd (by rwa [popEntry_frame] at hcap)
    rw [popEntry_frame]
    exact hm

theorem decodeRead_move {s t : State P} {b x : Bool} {bs : List Bool} (hp : s.PHASE = .dRun)
    (hin : s.IN_BITS = some (x :: bs)) (h : decodeRead b { s with IN_BITS := some bs } = .ok t) : Move s t := by
  obtain ⟨root, hroot, h⟩ := op_bind_eq_ok.mp h
  split at h
  · obtain rfl := Except.ok.inj h
    exact .bitSingle hp hin hroot ‹_›
  rename_i hinner
  obtain ⟨cur, hcur, h⟩ := op_bind_eq_ok.mp h
  obtain ⟨r, hr, h⟩ := op_bind_eq_ok.mp h
  obtain rfl := Except.ok.inj h
  split
  · exact .bitLeaf hp hin hroot (by simpa using hinner) hcur hr ‹_›
  · rename_i hl
    exact .bitInner hp hin hroot (by simpa using hinner) hcur hr (by simpa using hl)

theorem decodeEnd_move {s : State P} (hp : s.PHASE = .dRun) : Move s (decodeEnd s) := by
  unfold decodeEnd
  split
  · exact .decodeEnd hp ‹_›
  · exact .decodeFault hp (by decide)

/-- A decoder bit is a move (R182). -/
theorem onBit_move {s t : State P} {b : Bool} (h : onBit b s = .next t) : Move s t := by
  obtain ⟨hp, x, bs, hin, ⟨-, rfl⟩ | ⟨-, h⟩⟩ := onBit_eq_next.mp h
  · exact .decodeFault hp (by decide)
  · exact decodeRead_move hp hin h

/-- A command is a move when its action in IDLE is one (R85). -/
theorem accept_move {s t : State P} {k : State P → Op (State P)} (h : accept k s = .next t)
    (hk : s.PHASE = .idle → k s = .ok t → Move s t) : Move s t := by
  obtain ⟨hp, h⟩ | ⟨-, rfl⟩ := accept_eq_next.mp h
  · exact hk hp h
  · exact .rest _ _ _

/-- A command that needs a tree is a move when its start on a tree is one (R85). -/
theorem needTree_move {s t : State P} {k : State P → State P} (hp : s.PHASE = .idle) (h : needTree k s = .ok t)
    (hk : s.TV = true → Move s (k s)) : Move s t := by
  obtain rfl := Except.ok.inj h
  split
  · exact hk ‹_›
  · exact .refuse hp (by decide)

/-- A character is a move when the step of its class is one (R133). -/
theorem onChar_move {s t : State P} {p : Phase} {k : State P → Op (State P)} (h : onChar p k s = .next t)
    (hk : ∀ c cs, s.PHASE = p → s.IN_TEXT = some (c :: cs) → k { s with IN_TEXT := some cs } = .ok t → Move s t) :
    Move s t := by
  obtain ⟨hp, c, cs, hin, h⟩ := onChar_eq_next.mp h
  exact hk c cs hp hin h

/-- Every instruction's meaning is a move. -/
theorem execAt_move {s t : State P} {i : Instr} (h : execAt i s = .next t) : Move s t := by
  cases i with
  | build =>
    exact accept_move (k := fun s => .ok (buildStart (bindFreq s))) h fun hp hk =>
      Except.ok.inj hk ▸ .buildStart hp
  | restore => exact accept_move (k := fun s => restoreStart (bindText s)) h restoreStart_move
  | serialize => exact accept_move h fun hp hk => needTree_move hp hk (serializeStart_move hp)
  | decode => exact accept_move h fun hp hk => needTree_move hp hk (.decodeStart hp)
  | reserved0 | reserved5 | reserved6 | reserved7 =>
    exact accept_move h fun hp hk => Except.ok.inj hk ▸ .refuse hp (by decide)
  | bitL | bitR => exact onBit_move h
  | symDigit0 | symDigit1 | symDigit2 | symDigit3 | symDigit4 | symDigit5 | symDigit6 | symDigit7 | symDigit8
  | symDigit9 => exact onChar_move h fun _ _ hp => symDigit_move hp
  | symLf => exact onChar_move h fun _ _ hp => symLf_move hp
  | symOther c =>
    exact onChar_move h fun _ _ hp _ hk => Except.ok.inj hk ▸ .restoreFault (.inl hp) (by decide) _ _ _ _
  | bits0 | bits1 => exact onChar_move h fun _ _ hp => restoreBit_move hp
  | bitsLf => exact onChar_move h fun _ _ hp => bitsLf_move hp
  | bitsOther c =>
    exact onChar_move h fun _ _ hp _ hk => Except.ok.inj hk ▸ .restoreFault (.inr hp) (by decide) _ _ _ _

/-- An engine step that is no instruction is a move where the engine chooses it (R101). -/
theorem runInternal_move {s t : State P} {k : Internal} (hk : engineWork s = .internal k)
    (h : runInternal k s = .next t) : Move s t := by
  cases hp : s.PHASE with
  | idle | fault =>
    obtain rfl : .hold = k := by simpa [engineWork, hp] using hk
    cases h
    exact .rest _ _ _
  | bScan =>
    obtain rfl : .buildScan = k := by simpa [engineWork, hp] using hk
    exact buildScan_move hp (settle_eq_next.mp h)
  | bMerge =>
    by_cases hq : 2 ≤ s.PQ.length
    · obtain rfl : .buildMerge = k := by simpa [engineWork, hp, hq] using hk
      exact buildMerge_move hp (settle_eq_next.mp h)
    · obtain rfl : .buildFinish = k := by simpa [engineWork, hp, hq] using hk
      cases h
      exact .buildFinish hp (Nat.lt_of_not_le hq)
  | rSym =>
    rcases hin : s.IN_TEXT with _ | _ | ⟨c, cs⟩
    · obtain rfl : .unbound = k := by simpa [engineWork, hp, hin] using hk
      cases h
    · obtain rfl : .symEof = k := by simpa [engineWork, hp, hin] using hk
      exact symEof_move hp (settle_eq_next.mp h)
    · simp [engineWork, hp, hin] at hk
  | rBits =>
    rcases hin : s.IN_TEXT with _ | _ | ⟨c, cs⟩
    · obtain rfl : .unbound = k := by simpa [engineWork, hp, hin] using hk
      cases h
    · obtain rfl : .bitsEof = k := by simpa [engineWork, hp, hin] using hk
      cases h
      exact .restoreFault (.inr hp) (by decide) _ _ _ _
    · simp [engineWork, hp, hin] at hk
  | sWalk =>
    obtain rfl : .serializeWalk = k := by simpa [engineWork, hp] using hk
    exact serializeWalk_move hp (settle_eq_next.mp h)
  | dRun =>
    rcases hin : s.IN_BITS with _ | _ | ⟨b, bs⟩
    · obtain rfl : .unbound = k := by simpa [engineWork, hp, hin] using hk
      cases h
    · obtain rfl : .decodeEnd = k := by simpa [engineWork, hp, hin] using hk
      cases h
      exact decodeEnd_move hp
    · simp [engineWork, hp, hin] at hk

/-- The engine's turn is a move (R241). -/
theorem engineTurn_move {s s1 t : State P} (hf : fetch s = (engineWork s1, s1)) (h : stepAt s = .next t) :
    Move s1 t := by
  cases hw : engineWork s1 with
  | instr i => exact execAt_move (i := i) (by simpa only [stepAt, hf, hw] using h)
  | internal k => exact runInternal_move hw (by simpa only [stepAt, hf, hw] using h)

/-- Every step is reset's, or a move from the state with the host's part of the turn taken. -/
theorem stepAt_cases {s t : State P} (h : stepAt s = .next t) :
    (∃ rest, s.script = .reset :: rest ∧ t = blockReset { s with script := rest }) ∨
    (NoReset s ∧ ∃ o sc, Move { s with offer := o, script := sc } t) := by
  obtain ⟨hs, hf⟩ | ⟨rest, hs, hf⟩ | ⟨w, o, rest, hs, hf⟩ | ⟨rest, hs, hf⟩ | ⟨rest, hs, hf⟩ := fetch_cases s
  · exact .inr ⟨by simp [hs], s.offer, s.script, engineTurn_move hf h⟩
  · exact .inr ⟨by simp [hs], s.offer, rest, engineTurn_move hf h⟩
  · exact .inr ⟨by simp [hs], o, rest, execAt_move (by simpa only [stepAt, hf] using h)⟩
  · simp only [stepAt, hf] at h
    cases h
    exact .inr ⟨by simp [hs], s.offer, rest, .rest _ _ _⟩
  · simp only [stepAt, hf] at h
    cases h
    exact .inl ⟨rest, hs, rfl⟩

/-- What every step but reset's does at this hardware's parameters. -/
theorem step_move {s t : State} (hn : NoReset s) (h : step s = .next t) :
    ∃ o sc, Move { s with offer := o, script := sc } t := by
  rw [step_eq_stepAt] at h
  obtain ⟨rest, hs, -⟩ | ⟨-, hm⟩ := stepAt_cases h
  · exact absurd (by rw [hs]; rfl) hn
  · exact hm

end Sys2Proof.Machine
end

section
/-! PROOFS. StoreInv (R22, R36): its parts under names, what each write of the state does to them, and that every move
keeps them. -/

namespace Sys2Proof.Machine

variable {P : Params}

/-! Cells. -/

section cells
variable {α : Type}

/-- A cell of the list after a write is the one written or an old one. -/
theorem mem_cellPut {m : List (Nat × α)} {i : Nat} {v : α} {c : Nat × α} (h : c ∈ cellPut m i v) :
    c = (i, v) ∨ c ∈ m := by
  induction m with
  | nil => simpa [cellPut] using h
  | cons x m ih =>
    obtain ⟨k, y⟩ := x
    simp only [cellPut] at h
    split at h
    · simpa using h
    · split at h
      · rcases List.mem_cons.mp h with h | h
        · exact .inl h
        · exact .inr (List.mem_cons_of_mem _ h)
      · rcases List.mem_cons.mp h with rfl | h
        · simp
        · exact (ih h).imp_right (List.mem_cons_of_mem _)

/-- A write above every key appends. -/
theorem cellPut_eq_append {m : List (Nat × α)} {i : Nat} (v : α) (h : ∀ k ∈ m.map Prod.fst, k < i) :
    cellPut m i v = m ++ [(i, v)] := by
  induction m with
  | nil => rfl
  | cons x m ih =>
    obtain ⟨k, y⟩ := x
    obtain ⟨hk, hm⟩ := List.forall_mem_cons.mp h
    simp only [cellPut, if_neg (Nat.lt_asymm hk), if_neg (Nat.ne_of_gt hk), ih hm, List.cons_append]

/-- A write at a key that is there leaves the keys as they are. -/
theorem cellPut_keys {m : List (Nat × α)} {i : Nat} (v : α) (hm : (m.map Prod.fst).Pairwise (· < ·))
    (hi : i ∈ m.map Prod.fst) : (cellPut m i v).map Prod.fst = m.map Prod.fst := by
  induction m with
  | nil => simp at hi
  | cons x m ih =>
    obtain ⟨k, y⟩ := x
    obtain ⟨hk, hm⟩ := List.pairwise_cons.mp hm
    rcases List.mem_cons.mp hi with rfl | hi
    · simp [cellPut]
    · have hlt := hk i hi
      simp only [cellPut, if_neg (Nat.lt_asymm hlt), if_neg (Nat.ne_of_gt hlt), List.map_cons, ih hm hi]

end cells

/-! The store and its records. -/

/-- A record's links lead below `next` or are absent, and its symbol is a member of the alphabet (R33, R36). -/
structure RecordOk (next : BitVec (P.IDX_BITS + 1)) (r : NodeRec P) : Prop where
  left : linkOk next r.L
  right : linkOk next r.R
  sym : r.SYM.toNat < P.N_SYM

/-- The store holds exactly the records below `next` (R22). -/
structure StoreExact (m : Memory P) (next : BitVec (P.IDX_BITS + 1)) : Prop where
  keys : m.map Prod.fst = List.range next.toNat
  cap : next.toNat ≤ P.NODE_CAP
  recs : ∀ c ∈ m, RecordOk next c.2

theorem linkOk_mono {n n' : BitVec (P.IDX_BITS + 1)} (hn : n.toNat ≤ n'.toNat) {c : Idx P} (h : linkOk n c) :
    linkOk n' c :=
  h.imp_right (Nat.lt_of_lt_of_le · hn)

theorem RecordOk.mono {n n' : BitVec (P.IDX_BITS + 1)} (hn : n.toNat ≤ n'.toNat) {r : NodeRec P} (h : RecordOk n r) :
    RecordOk n' r :=
  ⟨linkOk_mono hn h.left, linkOk_mono hn h.right, h.sym⟩

theorem RecordOk.childOf {n : BitVec (P.IDX_BITS + 1)} {r : NodeRec P} (h : RecordOk n r) (b : Bool) :
    linkOk n (childOf b r) := by
  cases b
  · exact h.left
  · exact h.right

theorem RecordOk.withChild {n : BitVec (P.IDX_BITS + 1)} {r : NodeRec P} (h : RecordOk n r) (b : Bool) {c : Idx P}
    (hc : linkOk n c) : RecordOk n (withChild b r c) := by
  cases b
  · exact { h with left := hc }
  · exact { h with right := hc }

/-- The symbol 0 is a member of every alphabet (R8). -/
theorem zero_toNat_lt (hP : P.ok) : (0 : Sym P).toNat < P.N_SYM := by
  obtain ⟨hn, -⟩ := hP
  simpa using Nat.lt_of_succ_le hn

theorem blankNode_recordOk (hP : P.ok) (n : BitVec (P.IDX_BITS + 1)) : RecordOk n (blankNode : NodeRec P) :=
  ⟨.inl rfl, .inl rfl, zero_toNat_lt hP⟩

/-- NEXT does not wrap within the store's capacity (R10). -/
theorem next_add_one_toNat (hP : P.ok) {n : BitVec (P.IDX_BITS + 1)} (h : n.toNat < P.NODE_CAP) :
    (n + 1).toNat = n.toNat + 1 := by
  obtain ⟨-, -, -, -, -, -, hcap, -⟩ := hP
  have := Nat.two_pow_pos P.IDX_BITS
  have hpow : 2 ^ (P.IDX_BITS + 1) = 2 * 2 ^ P.IDX_BITS := Nat.pow_succ'
  exact BitVec.toNat_add_of_lt (by simp; omega) |>.trans (by simp)

theorem next_le_add_one (hP : P.ok) {n : BitVec (P.IDX_BITS + 1)} (h : n.toNat < P.NODE_CAP) :
    n.toNat ≤ (n + 1).toNat := by
  rw [next_add_one_toNat hP h]
  exact Nat.le_succ _

/-- SP does not wrap on the way down to 0. -/
theorem sub_one_toNat {n : Nat} {x : BitVec (n + 1)} (h : x ≠ 0) : (x - 1).toNat = x.toNat - 1 := by
  have hpos : x.toNat ≠ 0 := fun e => h (BitVec.eq_of_toNat_eq (by simpa using e))
  rw [BitVec.toNat_sub_of_le (by rw [BitVec.le_def]; simp; omega)]
  simp

theorem StoreExact.empty : StoreExact ([] : Memory P) 0 := ⟨rfl, by simp, by simp⟩

theorem StoreExact.recordOk_of_read {m : Memory P} {n : BitVec (P.IDX_BITS + 1)} (h : StoreExact m n) {i : Idx P}
    {r : NodeRec P} (hr : nodeRead m i = .ok r) : RecordOk n r :=
  h.recs _ (cellGet_mem (nodeRead_eq_ok.mp hr).2)

/-- A record added at `next` (R54). -/
theorem StoreExact.alloc (hP : P.ok) {m : Memory P} {n : BitVec (P.IDX_BITS + 1)} (h : StoreExact m n)
    (hcap : n.toNat < P.NODE_CAP) {r : NodeRec P} (hr : RecordOk (n + 1) r) :
    StoreExact (cellPut m n.toNat r) (n + 1) := by
  have hn := next_add_one_toNat hP hcap
  refine ⟨?_, by omega, fun c hc => ?_⟩
  · rw [cellPut_eq_append r (by simp [h.keys]), hn, List.range_succ, List.map_append, h.keys]
    rfl
  · rcases mem_cellPut hc with rfl | hc
    · exact hr
    · exact (h.recs c hc).mono (by omega)

/-- The store with the placeholder root alone (R131, R132). -/
theorem StoreExact.blank (hP : P.ok) : StoreExact [(0, (blankNode : NodeRec P))] 1 := by
  have hcap : 0 < P.NODE_CAP := by
    obtain ⟨hn, -, -, -, hcap, -⟩ := hP
    omega
  simpa [cellPut] using StoreExact.empty.alloc hP (by simpa using hcap) (blankNode_recordOk hP _)

/-- A record below `next` replaced (R142, R143). -/
theorem StoreExact.write {m : Memory P} {n : BitVec (P.IDX_BITS + 1)} (h : StoreExact m n) {i : Nat}
    (hi : i < n.toNat) {r : NodeRec P} (hr : RecordOk n r) : StoreExact (cellPut m i r) n := by
  refine ⟨?_, h.cap, fun c hc => ?_⟩
  · rw [cellPut_keys r (by simpa [h.keys] using List.pairwise_lt_range) (by simpa [h.keys] using hi), h.keys]
  · rcases mem_cellPut hc with rfl | hc
    · exact hr
    · exact h.recs c hc

/-! StoreInv under names. -/

/-- The parts of StoreInv, each under a name. -/
structure StoreFacts (s : State P) : Prop where
  store : StoreExact s.NODE s.NEXT
  rsym : s.RSYM.toNat < P.N_SYM
  root : linkOk s.NEXT s.ROOT
  queued : ∀ i ∈ s.PQ, i.toNat < s.NEXT.toNat
  curb : InRestore s → s.CURB.toNat < s.NEXT.toNat
  stack : stackOk s
  walking : s.SP ≠ 0 → s.PHASE = .sWalk
  cur : s.PHASE = .dRun → linkOk s.NEXT s.CUR
  queueForm : queueWf s.PQ = true
  queueCap : s.PQ.length ≤ P.PQ_CAP
  building : s.PQ ≠ [] → InBuild s
  stackForm : StackMemory.wf s.STACK = true
  stackCap : s.SP.toNat ≤ P.STACK_CAP
  scan : s.I.toNat ≤ P.N_SYM

theorem storeInv_iff {s : State P} : StoreInv s ↔ StoreFacts s := by
  constructor
  · rintro ⟨keys, cap, recs, rsym, ⟨root, queued, curb, stack, walking, cur⟩, queueForm, queueCap, building, stackForm,
      stackCap, scan⟩
    have store : StoreExact s.NODE s.NEXT :=
      ⟨keys, cap, fun c hc => have ⟨left, right, sym⟩ := recs c hc; { left, right, sym }⟩
    exact { store, rsym, root, queued, curb, stack, walking, cur, queueForm, queueCap, building, stackForm, stackCap
            scan }
  · intro h
    have hrecs c (hc : c ∈ s.NODE) : linkOk s.NEXT c.2.L ∧ linkOk s.NEXT c.2.R ∧ c.2.SYM.toNat < P.N_SYM :=
      have hrec := h.store.recs c hc
      ⟨hrec.left, hrec.right, hrec.sym⟩
    exact ⟨h.store.keys, h.store.cap, hrecs, h.rsym,
      ⟨h.root, h.queued, h.curb, h.stack, h.walking, h.cur⟩, h.queueForm, h.queueCap, h.building, h.stackForm,
      h.stackCap, h.scan⟩

/-! Phases. -/

/-- The phases outside BUILD and SERIALIZE, in which the queue and the stack are empty (R38, R40). -/
def quiet : Phase → Bool
  | .bScan | .bMerge | .sWalk => false
  | _ => true

theorem not_inBuild_of_inRestore {s : State P} (h : InRestore s) : ¬ InBuild s := by
  rcases h with h | h <;> simp [InBuild, h]

/-- The scan moves on within BUILD (R112). -/
theorem scanNext_inBuild {s : State P} (hp : s.PHASE = .bScan) : InBuild (scanNext s) := by
  unfold scanNext InBuild
  split <;> simp [hp]

namespace StoreFacts

variable {s : State P}

/-- Every row of R46 together. -/
theorem blockReset (hP : P.ok) (s : State P) : StoreFacts (blockReset s) where
  store := .empty
  rsym := zero_toNat_lt hP
  root := .inl rfl
  queued := by simp [Machine.blockReset, resetAt]
  curb := by simp [Machine.blockReset, resetAt]
  stack := fun _ hk => by simp [Machine.blockReset, resetAt] at hk
  walking := by simp [Machine.blockReset, resetAt]
  cur := by simp [Machine.blockReset, resetAt]
  queueForm := rfl
  queueCap := Nat.zero_le _
  building := by simp [Machine.blockReset, resetAt]
  stackForm := rfl
  stackCap := Nat.zero_le _
  scan := Nat.zero_le _

/-! What holds outside BUILD and outside SERIALIZE. -/

theorem queue_nil (h : StoreFacts s) {p : Phase} (hp : s.PHASE = p) (hq : quiet p = true) : s.PQ = [] := by
  subst hp
  by_contra hne
  rcases h.building hne with hb | hb <;> simp [hb, quiet] at hq

theorem sp_zero (h : StoreFacts s) {p : Phase} (hp : s.PHASE = p) (hw : p ≠ .sWalk) : s.SP = 0 := by
  by_contra hsp
  exact hw (hp.symm.trans (h.walking hsp))

theorem ne_sWalk_of_quiet {p : Phase} (hq : quiet p = true) : p ≠ .sWalk := by
  rintro rfl
  cases hq

/-- The head of the queue is written; without one BUILD answers `NIL` (R116). -/
theorem queue_head (h : StoreFacts s) : linkOk s.NEXT (s.PQ.headD NIL) := by
  have hqueued := h.queued
  cases hq : s.PQ with
  | nil => exact .inl rfl
  | cons i q => exact .inr (hqueued i (by simp [hq]))

/-! One lemma for each kind of write. -/

/-- From a phase in which the queue and the stack are empty to another. -/
theorem toPhase (h : StoreFacts s) {p : Phase} (hp : s.PHASE = p) (hq : quiet p = true) (p' : Phase)
    (hr : p' = .rSym ∨ p' = .rBits → s.CURB.toNat < s.NEXT.toNat) (hd : p' = .dRun → linkOk s.NEXT s.CUR) :
    StoreFacts { s with PHASE := p' } :=
  { h with
    curb := hr
    walking := fun hsp => absurd (h.sp_zero hp (ne_sWalk_of_quiet hq)) hsp
    cur := hd
    building := fun hne => absurd (h.queue_nil hp hq) hne }

/-- Fault entry (R206). -/
theorem raise (h : StoreFacts s) {p : Phase} (hp : s.PHASE = p) (hq : quiet p = true) (f : Cause) :
    StoreFacts (raise f s) :=
  { h.toPhase hp hq .fault (by simp) (by simp) with }

/-- A new record at NEXT (R54). -/
theorem alloc (hP : P.ok) (h : StoreFacts s) (hcap : s.NEXT.toNat < P.NODE_CAP) {r : NodeRec P}
    (hr : RecordOk (s.NEXT + 1) r) :
    StoreFacts { s with NODE := cellPut s.NODE s.NEXT.toNat r, NEXT := s.NEXT + 1 } := by
  have hle := next_le_add_one hP hcap
  exact { h with
    store := h.store.alloc hP hcap hr
    root := linkOk_mono hle h.root
    queued := fun i hi => Nat.lt_of_lt_of_le (h.queued i hi) hle
    curb := fun hp => Nat.lt_of_lt_of_le (h.curb hp) hle
    stack := fun k hk => (h.stack k hk).imp fun e he => he.imp_right (linkOk_mono hle)
    cur := fun hp => linkOk_mono hle (h.cur hp) }

/-- A written record replaced (R142, R143). -/
theorem write (h : StoreFacts s) {i : Nat} (hi : i < s.NEXT.toNat) {r : NodeRec P} (hr : RecordOk s.NEXT r) :
    StoreFacts { s with NODE := cellPut s.NODE i r } :=
  { h with store := h.store.write hi hr }

/-- A member added to the queue (R56). -/
theorem enqueue (h : StoreFacts s) (hb : InBuild s) {i : Idx P} (hi : i.toNat < s.NEXT.toNat) {q : List (Idx P)}
    (hq : Enqueued i s.PQ q) : StoreFacts { s with PQ := q } :=
  { h with
    queued := fun j hj => by
      rcases (hq.mem j).mp hj with rfl | hj
      · exact hi
      · exact h.queued j hj
    queueForm := hq.form h.queueForm
    queueCap := hq.length h.queueCap
    building := fun _ => hb }

/-- Members taken off the queue (R57). -/
theorem dequeue (h : StoreFacts s) {q : List (Idx P)} (hq : q.Sublist s.PQ) : StoreFacts { s with PQ := q } :=
  { h with
    queued := fun i hi => h.queued i (hq.subset hi)
    queueForm := by
      have hform := h.queueForm
      simp only [queueWf, decide_eq_true_eq] at hform ⊢
      exact hform.sublist hq
    queueCap := hq.length_le.trans h.queueCap
    building := fun hne => h.building fun hnil => hne (List.sublist_nil.mp (hnil ▸ hq)) }

/-- The tree dropped, in IDLE (R55). -/
theorem dropTree (h : StoreFacts s) (hp : s.PHASE = .idle) : StoreFacts (dropTree s) :=
  { h with
    store := .empty
    root := .inl rfl
    queued := by simp [h.queue_nil hp rfl]
    curb := by simp [hp]
    stack := fun k hk => by simp [h.sp_zero hp (by decide)] at hk
    cur := by simp [hp] }

/-- The start of BUILD (R111). -/
theorem buildStart (h : StoreFacts s) (hp : s.PHASE = .idle) : StoreFacts (buildStart s) :=
  have hphase := (h.dropTree hp).toPhase hp rfl .bScan (by simp) (by simp)
  { hphase.dequeue (List.nil_sublist _) with scan := Nat.zero_le _ }

/-- The start of RESTORE (R131). -/
theorem restoreStart (hP : P.ok) (h : StoreFacts s) (hp : s.PHASE = .idle) :
    StoreFacts (restoreClear { Machine.dropTree s with NODE := [(0, blankNode)], NEXT := 1 }) :=
  { h.dropTree hp with
    store := .blank hP
    rsym := zero_toNat_lt hP
    root := .inl rfl
    queued := by simp [restoreClear, h.queue_nil hp rfl]
    curb := fun _ => by simp [restoreClear]
    stack := fun k hk => by simp [restoreClear, h.sp_zero hp (by decide)] at hk
    walking := fun hsp => absurd (h.sp_zero hp (by decide)) hsp
    cur := by simp [restoreClear]
    building := fun hq => absurd (h.queue_nil hp rfl) hq }

/-- The scan moves on (R112). -/
theorem scanNext (h : StoreFacts s) (hp : s.PHASE = .bScan) (hI : s.I.toNat < P.N_SYM) :
    StoreFacts (scanNext s) := by
  have hphase := scanNext_inBuild hp
  have hI' : (s.I + 1).toNat ≤ P.N_SYM := by
    rw [BitVec.toNat_add]
    exact (Nat.mod_le _ _).trans (by simp; omega)
  exact { h with
    curb := fun hr => absurd hphase (not_inBuild_of_inRestore hr)
    walking := fun hsp => absurd (h.sp_zero hp (by decide)) hsp
    cur := fun hd => absurd hphase (by simp only [InBuild, hd]; decide)
    building := fun _ => hphase
    scan := hI' }

/-- The top entry taken off the stack (R162). -/
theorem pop (h : StoreFacts s) (hsp : s.SP ≠ 0) : StoreFacts { s with SP := s.SP - 1 } := by
  have hle : (s.SP - 1).toNat ≤ s.SP.toNat := by
    rw [sub_one_toNat hsp]
    exact Nat.sub_le _ _
  exact { h with
    stack := fun k hk => h.stack k (Nat.lt_of_lt_of_le hk hle)
    walking := fun _ => h.walking hsp
    stackCap := hle.trans h.stackCap }

/-- An entry put on the stack at SP (R161, R162). -/
theorem push (h : StoreFacts s) (hw : s.PHASE = .sWalk) {k : Nat} (hk : k = s.SP.toNat) {sp : BitVec (P.SYM_BITS + 1)}
    (hsp : sp.toNat = k + 1) (hcap : k < P.STACK_CAP) {e : StackEntry P} (he : linkOk s.NEXT e.n) :
    StoreFacts { s with STACK := cellPut s.STACK k e, SP := sp } :=
  { h with
    stack := fun j hj => by
      by_cases hjk : j = k
      · subst hjk
        exact ⟨e, cellGet_cellPut_same .., he⟩
      · obtain ⟨x, hx, hok⟩ := h.stack j (by simp only at hj; omega)
        exact ⟨x, by simpa only [cellGet_cellPut_ne _ _ hjk] using hx, hok⟩
    walking := fun _ => hw
    stackForm := stack_wf_put e h.stackForm hcap
    stackCap := by simp only; omega }

end StoreFacts

/-! Every move keeps the facts. -/

/-- SP has room for a push within the stack's capacity (R40). -/
theorem sp_add_toNat (hP : P.ok) {x : BitVec (P.SYM_BITS + 1)} {k : Nat} (hcap : x.toNat + k ≤ P.STACK_CAP) :
    (x + BitVec.ofNat _ k).toNat = x.toNat + k := by
  have hsym := n_sym_le hP
  obtain ⟨-, -, -, -, -, -, -, -, -, hstack⟩ := hP
  have := Nat.two_pow_pos P.SYM_BITS
  have hpow : 2 ^ (P.SYM_BITS + 1) = 2 * 2 ^ P.SYM_BITS := Nat.pow_succ'
  rw [BitVec.toNat_add, BitVec.toNat_ofNat, Nat.add_mod_mod, Nat.mod_eq_of_lt (by omega)]

/-- `alloc` hands out an index below the new NEXT (R54). -/
theorem new_idx_lt (hP : P.ok) {n : BitVec (P.IDX_BITS + 1)} (hcap : n.toNat < P.NODE_CAP) :
    (n.setWidth P.IDX_BITS).toNat < (n + 1).toNat := by
  have hle : (n.setWidth P.IDX_BITS).toNat ≤ n.toNat := by
    rw [BitVec.toNat_setWidth]
    exact Nat.mod_le _ _
  rw [next_add_one_toNat hP hcap]
  omega

/-- The leaf of a symbol of the alphabet (R112). -/
theorem leafNode_recordOk (n : BitVec (P.IDX_BITS + 1)) {i : BitVec (P.SYM_BITS + 1)} (c : Count P)
    (hi : i.toNat < P.N_SYM) : RecordOk n (leafNode i c) := by
  refine ⟨.inl rfl, .inl rfl, ?_⟩
  rw [leafNode, BitVec.toNat_setWidth]
  exact Nat.lt_of_le_of_lt (Nat.mod_le _ _) hi

/-- Every move keeps the parts of StoreInv. -/
theorem Move.storeFacts (hP : P.ok) {s t : State P} (hm : Move s t) (h : StoreFacts s) : StoreFacts t := by
  cases hm with
  | rest o sc sr => exact { h with }
  | refuse hp hf => exact h.raise hp rfl _
  | buildStart hp => exact { h.buildStart hp with }
  | scanSkip hp hI => exact h.scanNext hp hI
  | @scanLeaf hp hI c hc hcap q hq =>
    have hstored := h.alloc hP hcap (leafNode_recordOk _ c hI)
    exact (hstored.enqueue (.inl hp) (new_idx_lt hP hcap) hq).scanNext hp hI
  | @merge hp a b q1 q2 q ra rb ha hb hra hrb hcap hq =>
    obtain ⟨hmem, rfl⟩ := extractMin_eq_ok ha
    obtain ⟨hmem', rfl⟩ := extractMin_eq_ok hb
    have hsub : ((s.PQ.erase a).erase b).Sublist s.PQ := List.erase_sublist.trans List.erase_sublist
    have hmerged : RecordOk s.NEXT (mergedNode ra.W rb.W a b) :=
      ⟨.inr (h.queued a hmem), .inr (h.queued b (List.mem_of_mem_erase hmem')), zero_toNat_lt hP⟩
    have hstored := (h.dequeue hsub).alloc hP hcap (hmerged.mono (next_le_add_one hP hcap))
    exact hstored.enqueue (.inr hp) (new_idx_lt hP hcap) hq
  | buildFinish hp hq =>
    exact { h.dequeue (List.nil_sublist _) with
      root := h.queue_head
      curb := by simp
      walking := fun hsp => absurd (h.sp_zero hp (by decide)) hsp
      cur := by simp
      building := by simp }
  | restoreStart hp hcap => exact { h.restoreStart hP hp with }
  | digit hp hin hacc => exact { h with }
  | symLf hp hin hd hfree =>
    have hsym : (s.SYMACC.setWidth P.SYM_BITS).toNat < P.N_SYM := by
      have hacc : s.SYMACC.toNat < P.N_SYM := by simpa using (List.getElem?_eq_some_iff.mp hfree).1
      rw [BitVec.toNat_setWidth]
      exact Nat.lt_of_le_of_lt (Nat.mod_le _ _) hacc
    have hcurb := h.curb (.inl hp)
    exact { h.toPhase hp rfl .rBits (fun _ => hcurb) (by simp) with
      rsym := hsym
      curb := fun _ => by simpa [symAccept] using Nat.zero_lt_of_lt hcurb }
  | bitDown hp hin hd hr hc =>
    exact { h with curb := fun _ => ((h.store.recordOk_of_read hr).childOf _).resolve_left hc }
  | @bitGrow hp ch cs hin hd r r' hr b hc hcap hr' =>
    have hstored := h.alloc hP hcap (blankNode_recordOk hP _)
    have hnew := new_idx_lt hP hcap
    have hlinked := hstored.write (hstored.curb (.inr hp))
      ((hstored.store.recordOk_of_read hr').withChild b (.inr hnew))
    exact { hlinked with curb := fun _ => hnew }
  | @bitsLf hp ch cs hin r hr =>
    have hassigned : RecordOk s.NEXT { r with SV := true, SYM := s.RSYM } :=
      { h.store.recordOk_of_read hr with sym := h.rsym }
    have hdone := h.write (h.curb (.inr hp)) hassigned
    exact { hdone.toPhase hp rfl .rSym (fun _ => h.curb (.inr hp)) (by simp) with }
  | tableEmpty hp hn =>
    exact { h.toPhase hp rfl .idle (by simp) (by simp) with root := .inl rfl }
  | tableDone hp hn hcf hone =>
    have hroot : linkOk s.NEXT (0 : Idx P) := .inr (by simpa using Nat.zero_lt_of_lt (h.curb (.inl hp)))
    exact { h.toPhase hp rfl .idle (by simp) (by simp) with root := hroot }
  | @restoreFault hp f hf text acc digits cf =>
    rcases hp with hp | hp <;> exact { h.raise hp rfl f with }
  | walkStartEmpty hp hv hroot =>
    exact { h.toPhase hp rfl .sWalk (by simp) (by simp) with
      stack := fun k hk => by simp at hk
      walking := by simp
      stackCap := Nat.zero_le _ }
  | walkStart hp hv hroot =>
    have hphase := h.toPhase hp rfl .sWalk (by simp) (by simp)
    have hcap : 0 < P.STACK_CAP := by
      obtain ⟨hn, -, -, -, -, -, -, -, -, hcap⟩ := hP
      omega
    exact { hphase.push (k := 0) (sp := 1) rfl (by simp [h.sp_zero hp (by decide)]) (by simp) hcap h.root with }
  | walkLeaf hp hsp he hr hl => exact { h.pop hsp with }
  | @walkInner hp hsp e he r hr hl hd hcap =>
    have hrec := h.store.recordOk_of_read hr
    have hone : (s.SP - 1 + 1).toNat = (s.SP - 1).toNat + 1 := sp_add_toNat hP (k := 1) (Nat.le_of_succ_le hcap)
    have htwo : (s.SP - 1 + 2).toNat = (s.SP - 1).toNat + 1 + 1 := sp_add_toNat hP hcap
    have hright := (h.pop hsp).push (e := ⟨r.R, e.d + 1, true⟩) hp rfl hone (Nat.lt_of_succ_lt hcap) hrec.right
    have hleft := hright.push (e := ⟨r.L, e.d + 1, false⟩) hp hone.symm htwo hcap hrec.left
    exact { hleft with }
  | walkEnd hp hsp =>
    exact { h with
      curb := by simp
      walking := fun hne => absurd hsp hne
      cur := by simp
      building := fun hq => absurd (h.building hq) (by simp [InBuild, hp]) }
  | decodeStart hp hv =>
    have hcur : StoreFacts { s with CUR := s.ROOT } := { h with cur := fun _ => h.root }
    exact { hcur.toPhase hp rfl .dRun (by simp) (fun _ => h.root) with }
  | decodeFault hp hf => exact h.raise hp rfl _
  | bitSingle hp hin hroot hl => exact { h with }
  | bitLeaf hp hin hroot hinner hcur hr hl => exact { h with cur := fun _ => h.root }
  | bitInner hp hin hroot hinner hcur hr hl =>
    exact { h with cur := fun _ => (h.store.recordOk_of_read hcur).childOf _ }
  | decodeEnd hp hcur => exact h.toPhase hp rfl .idle (by simp) (by simp)

/-- Every step keeps StoreInv, for any parameters of R8. -/
theorem stepAt_storeInv (hP : P.ok) {s t : State P} (hs : StoreInv s) (h : stepAt s = .next t) : StoreInv t := by
  rw [storeInv_iff] at hs ⊢
  obtain ⟨rest, -, rfl⟩ | ⟨-, o, sc, hm⟩ := stepAt_cases h
  · exact .blockReset hP _
  · exact hm.storeFacts hP { hs with }

/-- Settles O53: reset meets StoreInv, and every other step is a move, which keeps its parts. -/
theorem stepKeepsStoreInv : Obligations.StepKeepsStoreInv := by
  unfold Obligations.StepKeepsStoreInv
  intro s t hs h
  exact stepAt_storeInv hw_ok hs (step_eq_stepAt s ▸ h)

end Sys2Proof.Machine
end

section
/-! PROOFS. The flags and the phase (R23, R25, R101, R206), the outputs (R240) and the state after reset (R46). -/

namespace Sys2Proof.Machine

variable {P : Params}

/-! FlagInv: four ways a step can keep the flags and the phase in agreement. -/

theorem flagInv_of_same_flags {s t : State P} (h : FlagInv s) (hphase : t.PHASE = s.PHASE) (hcause : t.CAUSE = s.CAUSE)
    (htv : t.TV = s.TV) (hroot : t.ROOT = s.ROOT) : FlagInv t := by
  simpa only [FlagInv, InBuild, InRestore, hphase, hcause, htv, hroot] using h

/-- Fault entry (R206). -/
theorem flagInv_raise {s : State P} (hroot : s.TV = false → s.ROOT = NIL) {f : Cause} (hf : f ≠ .noFault) :
    FlagInv (raise f s) :=
  ⟨by simp [hf], by simp, by simp, hroot⟩

/-- No cause is recorded outside FAULT (R25). -/
theorem cause_of_flagInv {s : State P} (h : FlagInv s) (hp : s.PHASE ≠ .fault) : s.CAUSE = .noFault := by
  obtain ⟨hfault, -⟩ := h
  by_contra hc
  exact hp (hfault.mpr hc)

/-- A construction that starts or goes on without a tree (R23). -/
theorem flagInv_of_construction {s t : State P} (h : FlagInv s) (hp : s.PHASE ≠ .fault) (hcause : t.CAUSE = s.CAUSE)
    (hphase : InBuild t ∨ InRestore t) (htv : t.TV = false) (hroot : t.ROOT = NIL) : FlagInv t := by
  have hcause := hcause.trans (cause_of_flagInv h hp)
  rcases hphase with (hq | hq) | (hq | hq) <;> simp [FlagInv, hq, hcause, htv, hroot]

/-- A step to a phase in which a tree is allowed, with a tree (R23). -/
theorem flagInv_of_tree {s t : State P} (h : FlagInv s) (hp : s.PHASE ≠ .fault) (hcause : t.CAUSE = s.CAUSE)
    (hphase : t.PHASE = .idle ∨ t.PHASE = .sWalk ∨ t.PHASE = .dRun) (htv : t.TV = true) : FlagInv t := by
  have hcause := hcause.trans (cause_of_flagInv h hp)
  rcases hphase with hq | hq | hq <;> simp [FlagInv, hq, hcause, htv]

/-- Every move keeps FlagInv. -/
theorem Move.flagInv {s t : State P} (hm : Move s t) (h : FlagInv s) : FlagInv t := by
  have ⟨_, hnoTree, htree, hroot⟩ := h
  cases hm with
  | rest | merge | digit | bitDown | bitGrow | walkLeaf | walkInner | bitSingle | bitLeaf | bitInner =>
    exact flagInv_of_same_flags h rfl rfl rfl rfl
  | refuse _ hf | restoreFault _ hf | decodeFault _ hf => exact flagInv_raise hroot hf
  | buildStart hp => exact flagInv_of_construction h (by simp [hp]) rfl (.inl (.inl rfl)) rfl rfl
  | restoreStart hp => exact flagInv_of_construction h (by simp [hp]) rfl (.inr (.inl rfl)) rfl rfl
  | scanSkip hp | scanLeaf hp =>
    have htv := hnoTree (.inl (.inl hp))
    exact flagInv_of_construction h (by simp [hp]) rfl (.inl (scanNext_inBuild hp)) htv (hroot htv)
  | symLf hp =>
    have htv := hnoTree (.inr (.inl hp))
    exact flagInv_of_construction h (by simp [hp]) rfl (.inr (.inr rfl)) htv (hroot htv)
  | bitsLf hp =>
    have htv := hnoTree (.inr (.inr hp))
    exact flagInv_of_construction h (by simp [hp]) rfl (.inr (.inl rfl)) htv (hroot htv)
  | buildFinish hp | tableEmpty hp | tableDone hp => exact flagInv_of_tree h (by simp [hp]) rfl (.inl rfl) rfl
  | walkStartEmpty hp hv | walkStart hp hv => exact flagInv_of_tree h (by simp [hp]) rfl (.inr (.inl rfl)) hv
  | decodeStart hp hv => exact flagInv_of_tree h (by simp [hp]) rfl (.inr (.inr rfl)) hv
  | walkEnd hp => exact flagInv_of_tree h (by simp [hp]) rfl (.inl rfl) (htree (.inl hp))
  | decodeEnd hp => exact flagInv_of_tree h (by simp [hp]) rfl (.inl rfl) (htree (.inr hp))

theorem blockReset_flagInv (s : State P) : FlagInv (blockReset s) := by
  simp [FlagInv, blockReset, resetAt]

/-- Every step keeps FlagInv, for any parameters of R8. -/
theorem stepAt_flagInv {s t : State P} (hs : FlagInv s) (h : stepAt s = .next t) : FlagInv t := by
  obtain ⟨rest, -, rfl⟩ | ⟨-, o, sc, hm⟩ := stepAt_cases h
  · exact blockReset_flagInv _
  · exact hm.flagInv hs

/-- Settles O54: reset meets FlagInv, and every other step is a move, which keeps it. -/
theorem stepKeepsFlagInv : Obligations.StepKeepsFlagInv := by
  unfold Obligations.StepKeepsFlagInv
  intro s t hs h
  exact stepAt_flagInv hs (step_eq_stepAt s ▸ h)

/-! FAULT and the table of phases. -/

/-- From FAULT there is no move of the block (R208). -/
theorem Move.sameBlock_or_not_fault {s t : State P} (hm : Move s t) : SameBlock s t ∨ s.PHASE ≠ .fault := by
  cases hm with
  | rest => exact .inl rfl
  | restoreFault hp => exact .inr (by rcases hp with hp | hp <;> simp [hp])
  | _ => exact .inr (by simp [*])

/-- Settles O49: a recorded cause means FAULT, from which a step changes nothing of the block. -/
theorem causeIsRecordedOnce : Obligations.CauseIsRecordedOnce := by
  unfold Obligations.CauseIsRecordedOnce
  intro s t hs hcause hn h
  obtain ⟨o, sc, hm⟩ := step_move hn h
  rcases hm.sameBlock_or_not_fault with hsame | hp
  · exact (congrArg Any.State.CAUSE hsame).trans rfl
  · exact absurd (cause_of_flagInv hs hp) hcause

theorem phaseRow_self (p : Phase) : phaseRow p p = true := by cases p <;> rfl

/-- The scan goes on, or on to merging (R112). -/
theorem phaseRow_bScan {p : Phase} {t : State P} (hp : p = .bScan) (ht : InBuild t) : phaseRow p t.PHASE = true := by
  rcases ht with hq | hq <;> rw [hp, hq] <;> rfl

/-- Every move stays in its phase or takes a row of R101's table. -/
theorem Move.takes_row {s t : State P} (hm : Move s t) : phaseRow s.PHASE t.PHASE = true := by
  cases hm with
  | rest | merge | digit | bitDown | bitGrow | walkLeaf | walkInner | bitSingle | bitLeaf | bitInner =>
    exact phaseRow_self _
  | scanSkip hp | scanLeaf hp => exact phaseRow_bScan hp (scanNext_inBuild hp)
  | restoreFault hp => rcases hp with hp | hp <;> rw [hp] <;> rfl
  | refuse hp | buildStart hp | buildFinish hp | restoreStart hp | symLf hp | bitsLf hp | tableEmpty hp | tableDone hp
  | walkStartEmpty hp | walkStart hp | walkEnd hp | decodeStart hp | decodeFault hp | decodeEnd hp => rw [hp]; rfl

/-- Settles O50: every step but reset's is a move, and a move takes a row of the table. -/
theorem phaseFollowsTable : Obligations.PhaseFollowsTable := by
  unfold Obligations.PhaseFollowsTable
  intro s t hn h
  obtain ⟨o, sc, hm⟩ := step_move hn h
  exact hm.takes_row

/-! Outputs. -/

/-- The outputs of `s` are prefixes of those of `t` (R240). -/
def OutputsGrow (s t : State P) : Prop :=
  s.OUT_TEXT <+: t.OUT_TEXT ∧ s.OUT_PAIRS <+: t.OUT_PAIRS ∧ s.OUT_SYMS <+: t.OUT_SYMS

/-- Only a leaf of SERIALIZE writes OUT_TEXT and OUT_PAIRS, and only a leaf of DECODE OUT_SYMS (R62, R64). -/
theorem Move.outputsGrow {s t : State P} (hm : Move s t) : OutputsGrow s t := by
  cases hm with
  | walkLeaf => exact ⟨List.prefix_append .., List.prefix_append .., List.prefix_rfl⟩
  | bitSingle | bitLeaf => exact ⟨List.prefix_rfl, List.prefix_rfl, List.prefix_append ..⟩
  | _ => exact ⟨List.prefix_rfl, List.prefix_rfl, List.prefix_rfl⟩

/-- Settles O51: every step but reset's is a move, and a move appends to the outputs or leaves them. -/
theorem outputsOnlyGrow : Obligations.OutputsOnlyGrow := by
  unfold Obligations.OutputsOnlyGrow
  intro s t hn h
  obtain ⟨o, sc, hm⟩ := step_move hn h
  exact hm.outputsGrow

/-! Reset. -/

/-- An empty store has no record to read (R36). -/
theorem nodeRead_nil (i : Idx P) : ∃ f, nodeRead ([] : Memory P) i = .error f := by
  unfold nodeRead
  split
  · exact ⟨_, rfl⟩
  · exact ⟨_, rfl⟩

theorem status_resetAt (P : Params) : status (resetAt P) = 0x00#8 := by
  simp [status, busy, resetAt, Cause.code]

/-- The state after reset has the values of R46's table. -/
theorem resetAt_atReset (P : Params) : AtReset (resetAt P) :=
  ⟨rfl, rfl, rfl, rfl, rfl, rfl, rfl, rfl, rfl, rfl, rfl, rfl, rfl, rfl, rfl, rfl, rfl, rfl, rfl, rfl, status_resetAt P,
    rfl, rfl, rfl, rfl, rfl, rfl⟩

/-- Settles O5: every row of R46's table is how `resetAt` sets the field, and its store is empty. -/
theorem resetValues : Obligations.ResetValues := by
  unfold Obligations.ResetValues
  exact ⟨rfl, fun P => ⟨resetAt_atReset P, nodeRead_nil⟩⟩

/-- The block after reset meets the invariants, whatever the host's side (R230). -/
theorem blockReset_invariants (hP : P.ok) (s : State P) :
    StoreInv (blockReset s) ∧ FlagInv (blockReset s) ∧ ShapeInv (blockReset s) ∧ OwnInv (blockReset s) := by
  have hstore : StoreInv (blockReset s) := storeInv_iff.mpr (.blockReset hP s)
  have hflag := blockReset_flagInv s
  have hregs : RestoreRegs (blockReset s) := by simp [RestoreRegs, blockReset, resetAt]
  have hfinished : RecordsFinished (blockReset s) := by simp [RecordsFinished, blockReset, resetAt]
  have hgrowing : RecordsGrowing (blockReset s) := by simp [RecordsGrowing, blockReset, resetAt]
  have howned : Owned (blockReset s) := by simp [Owned, blockReset, resetAt, allKids, LinksDown]
  have hcursor (hp : (blockReset s).PHASE = .dRun) : cursorOk (blockReset s) := by simp [blockReset, resetAt] at hp
  exact ⟨hstore, hflag, ⟨hstore, hflag, hregs, hfinished, hgrowing, hcursor⟩, hstore, hflag, howned⟩

/-- Settles O57: the state after reset with a script is what reset leaves of it. -/
theorem resetMeetsInvariants : Obligations.ResetMeetsInvariants := by
  unfold Obligations.ResetMeetsInvariants
  intro h
  exact blockReset_invariants hw_ok { State.reset with script := h }

end Sys2Proof.Machine
end

section
/-! PROOFS. Ownership (R35, R54): what the writes of the store do to its links, and that every move keeps each index a
child at most once and every link leading one way. -/

namespace Sys2Proof.Machine

variable {P : Params}

/-! Cells. -/

section cells
variable {α : Type}

/-- A write at a key that is there replaces the one cell with that key. -/
theorem exists_cellPut_split {m : List (Nat × α)} {i : Nat} {x : α} (v : α) (hm : (m.map Prod.fst).Pairwise (· < ·))
    (hi : cellGet m i = some x) :
    ∃ m₁ m₂, m = m₁ ++ (i, x) :: m₂ ∧ cellPut m i v = m₁ ++ (i, v) :: m₂ := by
  induction m with
  | nil => cases hi
  | cons c m ih =>
    obtain ⟨k, y⟩ := c
    obtain ⟨hlt, hm⟩ := List.pairwise_cons.mp hm
    by_cases hk : k = i
    · subst hk
      obtain rfl : y = x := by simpa [cellGet] using hi
      exact ⟨[], m, rfl, by simp [cellPut]⟩
    · replace hi : cellGet m i = some x := by simpa [cellGet, hk] using hi
      have hki : k < i := hlt i (List.mem_map_of_mem (f := Prod.fst) (cellGet_mem hi))
      obtain ⟨m₁, m₂, rfl, hput⟩ := ih hm hi
      exact ⟨(k, y) :: m₁, m₂, rfl, by simp [cellPut, Nat.lt_asymm hki, Ne.symm hk, hput]⟩

end cells

/-! The children of a record and of a store. -/

theorem mem_allKids {m : Memory P} {k : Idx P} : k ∈ allKids m ↔ ∃ c ∈ m, k ∈ kids c.2 := List.mem_flatMap

/-- A leaf has no child (R31). -/
theorem kids_of_isLeaf {r : NodeRec P} (h : isLeaf r = true) : kids r = [] := by
  simp only [isLeaf, Bool.and_eq_true, beq_iff_eq] at h
  simp [kids, h]

/-- The two nodes a merge removes are the children of the node it makes (R114). -/
theorem kids_mergedNode (wa wb : Weight P) {a b : Idx P} (ha : a ≠ NIL) (hb : b ≠ NIL) :
    kids (mergedNode wa wb a b) = [a, b] := by
  simp [kids, mergedNode, ha, hb]

/-- Filling an absent link adds one child (R142). -/
theorem kids_withChild_perm {b : Bool} {r : NodeRec P} {c : Idx P} (habsent : childOf b r = NIL) (hc : c ≠ NIL) :
    (kids (withChild b r c)).Perm (c :: kids r) := by
  cases b with
  | false =>
    replace habsent : r.L = NIL := habsent
    simp [kids, withChild, habsent, hc]
  | true =>
    replace habsent : r.R = NIL := habsent
    by_cases hL : r.L = NIL
    · simp [kids, withChild, habsent, hc, hL]
    · simpa [kids, withChild, habsent, hc, hL] using List.Perm.swap _ _ _

/-- A record added at `next` adds its children (R54). -/
theorem StoreExact.allKids_alloc {m : Memory P} {n : BitVec (P.IDX_BITS + 1)} (h : StoreExact m n) (r : NodeRec P) :
    allKids (cellPut m n.toNat r) = allKids m ++ kids r := by
  rw [cellPut_eq_append r (by simp [h.keys])]
  simp [allKids]

theorem StoreExact.keys_pairwise {m : Memory P} {n : BitVec (P.IDX_BITS + 1)} (h : StoreExact m n) :
    (m.map Prod.fst).Pairwise (· < ·) := by
  rw [h.keys]
  exact List.pairwise_lt_range

open scoped List in
/-- A record that gains the children `new` gives them to the store (R142, R143). -/
theorem StoreExact.allKids_write_perm {m : Memory P} {n : BitVec (P.IDX_BITS + 1)} (h : StoreExact m n) {i : Nat}
    {r r' : NodeRec P} (hr : cellGet m i = some r) {new : List (Idx P)} (hk : (kids r').Perm (new ++ kids r)) :
    (allKids (cellPut m i r')).Perm (new ++ allKids m) := by
  obtain ⟨m₁, m₂, rfl, hput⟩ := exists_cellPut_split r' h.keys_pairwise hr
  rw [hput]
  simp only [allKids, List.flatMap_append, List.flatMap_cons]
  calc m₁.flatMap (fun c => kids c.2) ++ (kids r' ++ m₂.flatMap (fun c => kids c.2))
      _ ~ m₁.flatMap (fun c => kids c.2) ++ (new ++ kids r ++ m₂.flatMap (fun c => kids c.2)) :=
        (hk.append_right _).append_left _
      _ ~ new ++ (m₁.flatMap (fun c => kids c.2) ++ (kids r ++ m₂.flatMap (fun c => kids c.2))) := by
        rw [List.append_assoc new]
        exact List.perm_append_comm_assoc ..

/-- Every child in the store is written (R36). -/
theorem StoreFacts.allKids_written {s : State P} (h : StoreFacts s) {k : Idx P} (hk : k ∈ allKids s.NODE) :
    k.toNat < s.NEXT.toNat := by
  obtain ⟨c, hc, hk⟩ := mem_allKids.mp hk
  exact kids_written (storeInv_iff.mpr h) hc hk

/-- `NIL` is no child. -/
theorem nil_not_mem_allKids (m : Memory P) : NIL ∉ allKids m := fun h => by
  obtain ⟨c, -, hk⟩ := mem_allKids.mp h
  exact kids_ne_nil hk rfl

/-- The index `alloc` hands out is not yet a child (R54). -/
theorem StoreFacts.new_not_mem_allKids (hP : P.ok) {s : State P} (h : StoreFacts s) (hcap : s.NEXT.toNat < P.NODE_CAP) :
    s.NEXT.setWidth P.IDX_BITS ∉ allKids s.NODE := fun hk => by
  have := h.allKids_written hk
  rw [next_idx_toNat hP hcap] at this
  exact Nat.lt_irrefl _ this

/-- An index below `NODE_CAP` is not `NIL` (R8). -/
theorem ne_nil_of_lt_cap (hP : P.ok) {i : Idx P} (hi : i.toNat < P.NODE_CAP) : i ≠ NIL := by
  obtain ⟨-, -, -, -, -, -, hcap, -⟩ := hP
  rintro rfl
  rw [nil_toNat] at hi
  omega

/-- A queued node is not `NIL` (R38). -/
theorem StoreFacts.queued_ne_nil (hP : P.ok) {s : State P} (h : StoreFacts s) {i : Idx P} (hi : i ∈ s.PQ) : i ≠ NIL :=
  ne_nil_of_lt_cap hP (Nat.lt_of_lt_of_le (h.queued i hi) h.store.cap)

/-- The written form of a set holds no member twice (R38). -/
theorem nodup_of_queueWf {q : List (Idx P)} (h : queueWf q = true) : q.Nodup := by
  simp only [queueWf, decide_eq_true_eq] at h
  exact h.imp fun hlt => BitVec.ne_of_lt hlt

/-! Owned, for each kind of move. -/

/-- A step that leaves the store alone, adds nothing to the queue and starts no construction. -/
theorem owned_of_same_store {s t : State P} (h : Owned s) (hnode : t.NODE = s.NODE)
    (hroot : t.ROOT ∉ allKids s.NODE) (hqueue : ∀ i ∈ t.PQ, i ∈ s.PQ) (hbuild : InBuild t → InBuild s)
    (hrestore : InRestore t → InRestore s) : Owned t := by
  obtain ⟨hnodup, -, hq, hway, hdown, hup⟩ := h
  simp only [Owned, hnode]
  exact ⟨hnodup, hroot, fun i hi => hq i (hqueue i hi), hway, hdown ∘ hbuild, hup ∘ hrestore⟩

/-- A state whose store has no links, with an empty queue. -/
theorem owned_of_no_links {t : State P} (hnode : allKids t.NODE = []) (hqueue : t.PQ = []) : Owned t := by
  have hno : ∀ c ∈ t.NODE, ∀ k ∈ kids c.2, False := fun c hc k hk => by
    have : k ∈ allKids t.NODE := mem_allKids.mpr ⟨c, hc, hk⟩
    simp [hnode] at this
  have hdown : LinksDown t.NODE := fun c hc k hk => (hno c hc k hk).elim
  have hup : LinksUp t.NODE := fun c hc k hk => (hno c hc k hk).elim
  exact ⟨by simp [hnode], by simp [hnode], by simp [hqueue], .inl hdown, fun _ => hdown, fun _ => hup⟩

/-- BUILD makes a node of older nodes that are no children yet, and queues it: a leaf or a merged node (R112, R114). -/
theorem owned_of_built (hP : P.ok) {s t : State P} (h : StoreFacts s) (hown : Owned s) (hb : InBuild s) (ht : InBuild t)
    (hcap : s.NEXT.toNat < P.NODE_CAP) {r : NodeRec P} (hnode : t.NODE = cellPut s.NODE s.NEXT.toNat r)
    (hroot : t.ROOT = NIL) (hnodup : (kids r).Nodup) (hkids : ∀ k ∈ kids r, k ∈ s.PQ)
    (hqueue : ∀ i ∈ t.PQ, i = s.NEXT.setWidth P.IDX_BITS ∨ (i ∈ s.PQ ∧ i ∉ kids r)) : Owned t := by
  obtain ⟨hold, -, hq, -, hdown, -⟩ := hown
  have hall : allKids t.NODE = allKids s.NODE ++ kids r := by rw [hnode, h.store.allKids_alloc]
  have hdown' : LinksDown t.NODE := fun c hc k hk => by
    rw [hnode] at hc
    rcases mem_cellPut hc with rfl | hc
    · exact h.queued k (hkids k hk)
    · exact hdown hb c hc k hk
  have hfresh : s.NEXT.setWidth P.IDX_BITS ∉ kids r := fun hk => by
    have := h.queued _ (hkids _ hk)
    rw [next_idx_toNat hP hcap] at this
    exact Nat.lt_irrefl _ this
  refine ⟨?_, hroot ▸ nil_not_mem_allKids _, fun i hi => ?_, .inl hdown', fun _ => hdown', fun hr => ?_⟩
  · rw [hall]
    exact List.nodup_append.mpr ⟨hold, hnodup, fun k hk k' hk' e => hq k' (hkids k' hk') (e ▸ hk)⟩
  · rw [hall, List.mem_append, not_or]
    rcases hqueue i hi with rfl | ⟨hi, hir⟩
    · exact ⟨h.new_not_mem_allKids hP hcap, hfresh⟩
    · exact ⟨hq i hi, hir⟩
  · exact absurd ht (not_inBuild_of_inRestore hr)

/-- RESTORE makes a node, blank, and links it below an older node (R142). -/
theorem owned_of_grown (hP : P.ok) {s t : State P} (h : StoreFacts s) (hown : Owned s) (hr : InRestore s)
    (ht : InRestore t) (hcap : s.NEXT.toNat < P.NODE_CAP) {i : Idx P} (hi : i.toNat < s.NEXT.toNat) {b : Bool}
    {r : NodeRec P} (hread : cellGet s.NODE i.toNat = some r) (habsent : childOf b r = NIL)
    (hnode : t.NODE = cellPut (cellPut s.NODE s.NEXT.toNat blankNode) i.toNat
      (withChild b r (s.NEXT.setWidth P.IDX_BITS)))
    (hroot : t.ROOT = NIL) (hqueue : t.PQ = []) : Owned t := by
  obtain ⟨hold, -, -, -, -, hup⟩ := hown
  have hnew := next_idx_toNat hP hcap
  have hkids := kids_withChild_perm habsent (ne_nil_of_lt_cap hP (i := s.NEXT.setWidth P.IDX_BITS) (by rwa [hnew]))
  have hblank : kids (blankNode : NodeRec P) = [] := kids_of_isLeaf (by simp [isLeaf, blankNode])
  have hall : (allKids t.NODE).Perm (s.NEXT.setWidth P.IDX_BITS :: allKids s.NODE) := by
    have hperm := (h.store.alloc hP hcap (blankNode_recordOk hP _)).allKids_write_perm
      (by rwa [cellGet_cellPut_ne _ _ (Nat.ne_of_lt hi)]) (new := [_]) hkids
    rwa [h.store.allKids_alloc, hblank, List.append_nil, ← hnode] at hperm
  have hup' : LinksUp t.NODE := fun c hc k hk => by
    rw [hnode] at hc
    rcases mem_cellPut hc with rfl | hc
    · rcases List.mem_cons.mp (hkids.mem_iff.mp hk) with rfl | hk
      · rwa [hnew]
      · exact hup hr _ (cellGet_mem hread) k hk
    · rcases mem_cellPut hc with rfl | hc
      · simp [hblank] at hk
      · exact hup hr c hc k hk
  refine ⟨hall.nodup_iff.mpr (List.nodup_cons.mpr ⟨h.new_not_mem_allKids hP hcap, hold⟩),
    hroot ▸ nil_not_mem_allKids _, by simp [hqueue], .inr hup', fun hb => ?_, fun _ => hup'⟩
  exact absurd hb (not_inBuild_of_inRestore ht)

/-- RESTORE writes a symbol in a node and leaves its links (R143). -/
theorem owned_of_assigned {s t : State P} (h : StoreFacts s) (hown : Owned s) (hr : InRestore s) (ht : InRestore t)
    {i : Nat} {r r' : NodeRec P} (hread : cellGet s.NODE i = some r) (hnode : t.NODE = cellPut s.NODE i r')
    (hkids : kids r' = kids r) (hroot : t.ROOT = s.ROOT) (hqueue : t.PQ = s.PQ) : Owned t := by
  obtain ⟨hold, hroot', hq, -, -, hup⟩ := hown
  have hall : (allKids t.NODE).Perm (allKids s.NODE) := by
    rw [hnode]
    exact h.store.allKids_write_perm hread (new := []) (by rw [hkids]; rfl)
  have hup' : LinksUp t.NODE := fun c hc k hk => by
    rw [hnode] at hc
    rcases mem_cellPut hc with rfl | hc
    · exact hup hr _ (cellGet_mem hread) k (hkids ▸ hk)
    · exact hup hr c hc k hk
  refine ⟨hall.nodup_iff.mpr hold, by rwa [hall.mem_iff, hroot], fun i hi => ?_, .inr hup', fun hb => ?_, fun _ => hup'⟩
  · rw [hall.mem_iff]
    exact hq i (hqueue ▸ hi)
  · exact absurd hb (not_inBuild_of_inRestore ht)

/-- Every move keeps ownership. -/
theorem Move.owned (hP : P.ok) {s t : State P} (hm : Move s t) (h : StoreFacts s) (hf : FlagInv s) (hown : Owned s) :
    Owned t := by
  have ⟨_, hroot, hq, _, _, hup⟩ := hown
  have ⟨_, hnoTree, _, hnoRoot⟩ := hf
  cases hm with
  | rest | digit | bitDown | walkLeaf | walkInner | bitSingle | bitLeaf | bitInner =>
    exact owned_of_same_store hown rfl hroot (fun _ hi => hi) id id
  | refuse | restoreFault | walkStartEmpty | walkStart | walkEnd | decodeStart | decodeFault | decodeEnd =>
    exact owned_of_same_store hown rfl hroot (fun _ hi => hi) (by simp [InBuild]) (by simp [InRestore])
  | symLf hp =>
    exact owned_of_same_store hown rfl hroot (fun _ hi => hi) (by simp [InBuild, symAccept]) fun _ => .inl hp
  | tableEmpty =>
    exact owned_of_same_store hown rfl (nil_not_mem_allKids _) (fun _ hi => hi) (by simp [InBuild])
      (by simp [InRestore])
  | tableDone hp =>
    have hzero : (0 : Idx P) ∉ allKids s.NODE := fun hk => by
      obtain ⟨c, hc, hk⟩ := mem_allKids.mp hk
      have := hup (.inl hp) c hc _ hk
      simp at this
    exact owned_of_same_store hown rfl hzero (fun _ hi => hi) (by simp [InBuild]) (by simp [InRestore])
  | buildFinish =>
    have hhead : s.PQ.headD NIL ∉ allKids s.NODE := by
      cases hpq : s.PQ with
      | nil => exact nil_not_mem_allKids _
      | cons i q => exact hq i (by simp [hpq])
    exact owned_of_same_store hown rfl hhead (by simp) (by simp [InBuild]) (by simp [InRestore])
  | scanSkip hp =>
    exact owned_of_same_store hown rfl hroot (fun _ hi => hi) (fun _ => .inl hp) fun hr =>
      absurd (scanNext_inBuild hp) (not_inBuild_of_inRestore hr)
  | buildStart => exact owned_of_no_links rfl rfl
  | restoreStart hp => exact owned_of_no_links (by simp [restoreClear, allKids, kids, blankNode]) (h.queue_nil hp rfl)
  | @scanLeaf hp hI c hc hcap q hqueue =>
    have hleaf : kids (leafNode s.I c) = [] := kids_of_isLeaf (by simp [isLeaf, leafNode])
    exact owned_of_built hP h hown (.inl hp) (scanNext_inBuild hp) hcap rfl (hnoRoot (hnoTree (.inl (.inl hp))))
      (by simp [hleaf]) (by simp [hleaf]) fun i hi => by simpa [hleaf] using (hqueue.mem i).mp hi
  | @merge hp a b q1 q2 q ra rb ha hb hra hrb hcap hqueue =>
    obtain ⟨hma, rfl⟩ := extractMin_eq_ok ha
    obtain ⟨hmb, rfl⟩ := extractMin_eq_ok hb
    have hnodup := nodup_of_queueWf h.queueForm
    obtain ⟨hba, hmb⟩ := hnodup.mem_erase_iff.mp hmb
    have hkids := kids_mergedNode ra.W rb.W (h.queued_ne_nil hP hma) (h.queued_ne_nil hP hmb)
    refine owned_of_built hP h hown (.inr hp) (.inr hp) hcap rfl (hnoRoot (hnoTree (.inl (.inr hp))))
      (by simp [hkids, hba.symm]) (by simp [hkids, hma, hmb]) fun i hi => ?_
    rcases (hqueue.mem i).mp hi with rfl | hi
    · exact .inl rfl
    · obtain ⟨hib, hi⟩ := (hnodup.erase a).mem_erase_iff.mp hi
      obtain ⟨hia, hi⟩ := hnodup.mem_erase_iff.mp hi
      exact .inr ⟨hi, by simp [hkids, hia, hib]⟩
  | @bitGrow hp ch cs hin hd r r' hr b hc hcap hr' =>
    have hcurb := h.curb (.inr hp)
    have hread := (nodeRead_eq_ok.mp hr).2
    obtain rfl : r = r' := by
      have hread' := (nodeRead_eq_ok.mp hr').2
      rw [cellGet_cellPut_ne _ _ (Nat.ne_of_lt hcurb), hread] at hread'
      exact Option.some.inj hread'
    exact owned_of_grown hP h hown (.inr hp) (.inr hp) hcap hcurb hread hc rfl
      (hnoRoot (hnoTree (.inr (.inr hp)))) (h.queue_nil hp rfl)
  | bitsLf hp hin hr =>
    exact owned_of_assigned h hown (.inr hp) (.inl rfl) (nodeRead_eq_ok.mp hr).2 rfl rfl rfl rfl

/-- Every step keeps OwnInv, for any parameters of R8. -/
theorem stepAt_ownInv (hP : P.ok) {s t : State P} (hs : OwnInv s) (h : stepAt s = .next t) : OwnInv t := by
  obtain ⟨hstore, hflag, hown⟩ := hs
  refine ⟨stepAt_storeInv hP hstore h, stepAt_flagInv hflag h, ?_⟩
  obtain ⟨rest, -, rfl⟩ | ⟨-, o, sc, hm⟩ := stepAt_cases h
  · obtain ⟨-, -, -, -, -, hreset⟩ := blockReset_invariants hP { s with script := rest }
    exact hreset
  · exact hm.owned hP { storeInv_iff.mp hstore with } hflag hown

/-- Settles O56: reset meets OwnInv, and every other step is a move, which adds to the store's links only indices that
are no children yet, and each in the one direction of its construction. -/
theorem stepKeepsOwnership : Obligations.StepKeepsOwnership := by
  unfold Obligations.StepKeepsOwnership
  intro s t hs h
  exact stepAt_ownInv hw_ok hs (step_eq_stepAt s ▸ h)

end Sys2Proof.Machine
end

section
/-! PROOFS. The queue and the tree (R57, R68): extract_min answers the least key, and no step outside a construction
writes the tree. -/

namespace Sys2Proof.Machine

variable {P : Params}

/-! extract_min. -/

/-- The order of keys on numbers (R57). -/
theorem keyLt_iff {x y : Key P} :
    keyLt x y = true ↔ x.1.toNat < y.1.toNat ∨ (x.1.toNat = y.1.toNat ∧ x.2.toNat < y.2.toNat) := by
  simp [keyLt, BitVec.lt_def, BitVec.toNat_inj]

/-- A key that is no greater than the lesser of two is no greater than either (R57). -/
theorem not_keyLt_of_not_keyLt_min {x y k : Key P} (h : ¬ keyLt (if keyLt x y then x else y) k = true) :
    ¬ keyLt x k = true ∧ ¬ keyLt y k = true := by
  split at h <;> simp only [keyLt_iff] at * <;> omega

/-- On members that can be read, `leastKey` answers a key that neither its first key nor a member's key is below. -/
theorem exists_leastKey {m : Memory P} {q : List (Idx P)} (hq : ∀ i ∈ q, ∃ r, nodeRead m i = .ok r) (b : Key P) :
    ∃ k, leastKey m b q = .ok k ∧ (k = b ∨ ∃ i ∈ q, keyOf m i = .ok k) ∧ ¬ keyLt b k = true ∧
      ∀ i ∈ q, ∀ x, keyOf m i = .ok x → ¬ keyLt x k = true := by
  induction q generalizing b with
  | nil => exact ⟨b, rfl, .inl rfl, by simp [keyLt_iff], by simp⟩
  | cons i q ih =>
    obtain ⟨⟨r, hr⟩, hq⟩ := List.forall_mem_cons.mp hq
    have hi : keyOf m i = .ok (r.W, i) := keyOf_eq_ok.mpr ⟨r, hr, rfl⟩
    obtain ⟨k, hk, hmem, hbest, hrest⟩ := ih hq (if keyLt (r.W, i) b then (r.W, i) else b)
    obtain ⟨hik, hbk⟩ := not_keyLt_of_not_keyLt_min hbest
    refine ⟨k, by rw [leastKey, op_bind_eq_ok]; exact ⟨_, hi, hk⟩, ?_, hbk, ?_⟩
    · rcases hmem with rfl | ⟨j, hj, hkj⟩
      · split
        · exact .inr ⟨i, List.mem_cons_self, hi⟩
        · exact .inl rfl
      · exact .inr ⟨j, List.mem_cons_of_mem _ hj, hkj⟩
    · refine List.forall_mem_cons.mpr ⟨fun x hx => ?_, hrest⟩
      obtain rfl := Except.ok.inj (hi.symm.trans hx)
      exact hik

/-- On a queue of members that can be read, `extract_min` answers a member whose key no member's key is below (R57). -/
theorem exists_extractMin {m : Memory P} {q : List (Idx P)} (hne : q ≠ [])
    (hq : ∀ i ∈ q, ∃ r, nodeRead m i = .ok r) :
    ∃ i r, extractMin m q = .ok (i, q.erase i) ∧ i ∈ q ∧ nodeRead m i = .ok r ∧
      ∀ j r', j ∈ q → nodeRead m j = .ok r' → ¬ keyLt (r'.W, j) (r.W, i) = true := by
  obtain ⟨i, q, rfl⟩ := List.exists_cons_of_ne_nil hne
  obtain ⟨⟨r, hr⟩, hq⟩ := List.forall_mem_cons.mp hq
  have hi : keyOf m i = .ok (r.W, i) := keyOf_eq_ok.mpr ⟨r, hr, rfl⟩
  obtain ⟨k, hk, hmem, hfirst, hrest⟩ := exists_leastKey hq (r.W, i)
  have hkey : ∃ j ∈ i :: q, keyOf m j = .ok k := by
    rcases hmem with rfl | ⟨j, hj, hkj⟩
    · exact ⟨i, List.mem_cons_self, hi⟩
    · exact ⟨j, List.mem_cons_of_mem _ hj, hkj⟩
  obtain ⟨j, hj, hkj⟩ := hkey
  obtain ⟨rj, hrj, rfl⟩ := keyOf_eq_ok.mp hkj
  have hextract : extractMin m (i :: q) = .ok (j, (i :: q).erase j) :=
    op_bind_eq_ok.mpr ⟨_, hi, op_bind_eq_ok.mpr ⟨_, hk, rfl⟩⟩
  refine ⟨j, rj, hextract, hj, hrj, fun j' r' hj' hr' => ?_⟩
  rcases List.mem_cons.mp hj' with rfl | hj'
  · obtain rfl := Except.ok.inj (hr.symm.trans hr')
    exact hfirst
  · exact hrest j' hj' _ (keyOf_eq_ok.mpr ⟨r', hr', rfl⟩)

/-- Settles O21: keys of different members differ in the index, so the members no less than the answer are greater. -/
theorem extractMinTakesLeastKey : Obligations.ExtractMinTakesLeastKey := by
  unfold Obligations.ExtractMinTakesLeastKey
  intro P m q hne _ hq
  obtain ⟨i, r, hextract, hi, hr, hleast⟩ := exists_extractMin hne hq
  refine ⟨i, r, hextract, hi, hr, fun j r' hj hji hr' => ?_⟩
  have hkey := hleast j r' hj hr'
  have hidx : j.toNat ≠ i.toNat := fun e => hji (BitVec.eq_of_toNat_eq e)
  simp only [keyLt_iff] at hkey
  rw [BitVec.lt_def, BitVec.lt_def, ← BitVec.toNat_inj]
  omega

/-! The tree outside the constructions. -/

/-- The store, NEXT, ROOT and TV are the same (R68). -/
def SameTree (s t : State P) : Prop := t.NODE = s.NODE ∧ t.NEXT = s.NEXT ∧ t.ROOT = s.ROOT ∧ t.TV = s.TV

/-- A move outside BUILD and RESTORE that starts neither leaves the tree as it was (R68). -/
theorem Move.sameTree {s t : State P} (hm : Move s t) (hb : ¬ InBuild s) (hr : ¬ InRestore s) (hb' : ¬ InBuild t)
    (hr' : ¬ InRestore t) : SameTree s t := by
  cases hm with
  | buildStart => exact absurd (.inl rfl) hb'
  | restoreStart => exact absurd (.inl rfl) hr'
  | scanSkip hp | scanLeaf hp => exact absurd (.inl hp) hb
  | merge hp | buildFinish hp => exact absurd (.inr hp) hb
  | digit hp | symLf hp | tableEmpty hp | tableDone hp => exact absurd (.inl hp) hr
  | bitDown hp | bitGrow hp | bitsLf hp => exact absurd (.inr hp) hr
  | restoreFault hp => exact absurd hp hr
  | rest | refuse | walkStartEmpty | walkStart | walkLeaf | walkInner | walkEnd | decodeStart | decodeFault | bitSingle
  | bitLeaf | bitInner | decodeEnd => exact ⟨rfl, rfl, rfl, rfl⟩

/-- Settles O52: every step but reset's is a move, and the moves that write the tree belong to a construction or start
one. -/
theorem treeChangesOnlyUnderConstruction : Obligations.TreeChangesOnlyUnderConstruction := by
  unfold Obligations.TreeChangesOnlyUnderConstruction
  intro s t hn hb hr hb' hr' h
  obtain ⟨o, sc, hm⟩ := step_move hn h
  exact hm.sameTree hb hr hb' hr'

end Sys2Proof.Machine
end

section
/-! PROOFS. Depths (R33, R40, R119, R170): in a store where no record has exactly one child and every index is a child
at most once, the tree below a node that is no child is no deeper than the longest bit-string. -/

namespace Sys2Proof.Machine

variable {P : Params}

/-! Stored trees. -/

/-- The root of a stored tree can be read (R13). -/
theorem exists_nodeRead_of_treeAt {m : Memory P} {t : CodeTree P} {i : Idx P} (h : treeAt m t i) :
    ∃ r, nodeRead m i = .ok r := by
  cases t <;> obtain ⟨r, hr, -⟩ := h <;> exact ⟨r, hr⟩

/-- A stored tree whose root has children is made of the trees at its links (R13). -/
theorem exists_subtrees_of_treeAt {m : Memory P} {t : CodeTree P} {i : Idx P} (h : treeAt m t i) {r : NodeRec P}
    (hr : nodeRead m i = .ok r) (hl : isLeaf r = false) :
    ∃ a b, t = .node a b ∧ treeAt m a r.L ∧ treeAt m b r.R := by
  cases t with
  | leaf x =>
    obtain ⟨r', hr', hl', -⟩ := h
    obtain rfl := Except.ok.inj (hr.symm.trans hr')
    simp [hl] at hl'
  | node a b =>
    obtain ⟨r', hr', -, ha, hb⟩ := h
    obtain rfl := Except.ok.inj (hr.symm.trans hr')
    exact ⟨a, b, rfl, ha, hb⟩

/-! Records with children. -/

/-- The children of a record that has two are its links. -/
theorem kids_of_inner {r : NodeRec P} (hone : oneChild r = false) (hl : isLeaf r = false) : kids r = [r.L, r.R] := by
  obtain ⟨hL, hR⟩ := finished_inner_kids (r := { r with SV := isLeaf r }) ⟨rfl, hone⟩ hl
  have hL : r.L ≠ NIL := kids_ne_nil hL
  have hR : r.R ≠ NIL := kids_ne_nil hR
  simp [kids, hL, hR]

/-- The records with children whose index is of a measure at most `n`. -/
def innerUpTo (μ : Nat → Nat) (m : Memory P) (n : Nat) : Memory P :=
  m.filter (fun c => !isLeaf c.2 && decide (μ c.1 ≤ n))

/-- A record with children is counted at its own measure and not below it. -/
theorem length_innerUpTo_lt {μ : Nat → Nat} {m : Memory P} {c : Nat × NodeRec P} (hc : c ∈ m) (hl : isLeaf c.2 = false)
    {n : Nat} (hn : n < μ c.1) : (innerUpTo μ m n).length < (innerUpTo μ m (μ c.1)).length := by
  have hfilter : innerUpTo μ m n = (innerUpTo μ m (μ c.1)).filter (fun x => decide (μ x.1 ≤ n)) := by
    rw [innerUpTo, innerUpTo, List.filter_filter]
    refine List.filter_congr fun x _ => ?_
    rw [Bool.eq_iff_iff]
    simp only [Bool.and_eq_true, decide_eq_true_eq]
    constructor
    · rintro ⟨hx, hxn⟩
      exact ⟨hxn, hx, by omega⟩
    · rintro ⟨hxn, hx, -⟩
      exact ⟨hx, hxn⟩
  rw [hfilter, List.length_filter_lt_length_iff_exists]
  exact ⟨c, by simp [innerUpTo, hc, hl], by simpa using hn⟩

/-- Records with children have two, all different children of the store (R33, R35). -/
theorem two_mul_length_innerUpTo_le {m : Memory P} (hpairs : ∀ c ∈ m, oneChild c.2 = false) (μ : Nat → Nat) (n : Nat) :
    2 * (innerUpTo μ m n).length ≤ (allKids m).length := by
  induction m with
  | nil => simp [innerUpTo]
  | cons c m ih =>
    obtain ⟨hone, hpairs⟩ := List.forall_mem_cons.mp hpairs
    have hm : 2 * (m.filter (fun c => !isLeaf c.2 && decide (μ c.1 ≤ n))).length ≤
        (m.flatMap fun c => kids c.2).length := ih hpairs
    rw [innerUpTo, List.filter_cons, allKids, List.flatMap_cons, List.length_append]
    split
    · rename_i hc
      have hl : isLeaf c.2 = false := by simpa using And.left (Bool.and_eq_true_iff.mp hc)
      rw [kids_of_inner hone hl, List.length_cons, List.length_cons, List.length_cons]
      omega
    · omega

/-- Children that are all different, and a written index that is none of them, are all written (R35, R36). -/
theorem StoreFacts.length_allKids_lt {s : State P} (h : StoreFacts s) (hnodup : (allKids s.NODE).Nodup) {i : Idx P}
    (hi : i.toNat < s.NEXT.toNat) (hchild : i ∉ allKids s.NODE) : (allKids s.NODE).length < s.NEXT.toNat := by
  have hall : ((i :: allKids s.NODE).map BitVec.toNat).Nodup :=
    (List.nodup_cons.mpr ⟨hchild, hnodup⟩).map fun _ _ => BitVec.eq_of_toNat_eq
  have hrange : (i :: allKids s.NODE).map BitVec.toNat ⊆ List.range s.NEXT.toNat := fun n hn => by
    obtain ⟨k, hk, rfl⟩ := List.mem_map.mp hn
    rw [List.mem_range]
    rcases List.mem_cons.mp hk with rfl | hk
    · exact hi
    · exact h.allKids_written hk
  simpa using (hall.subperm hrange).length_le

/-! Depths. -/

/-- Below a written record stands a tree no deeper than there are records with children up to its measure. -/
theorem exists_treeAt_le_innerUpTo {s : State P} (hP : P.ok) (hs : StoreInv s)
    (hpairs : ∀ c ∈ s.NODE, oneChild c.2 = false) {μ : Nat → Nat}
    (hμ : ∀ c ∈ s.NODE, ∀ k ∈ kids c.2, μ k.toNat < μ c.1) {i : Idx P} (hi : i.toNat < s.NEXT.toNat) :
    ∃ t, treeAt s.NODE t i ∧ depthOf t ≤ (innerUpTo μ s.NODE (μ i.toNat)).length := by
  induction hn : μ i.toNat using Nat.strong_induction_on generalizing i with
  | _ n ih =>
    subst hn
    obtain ⟨r, hr, hmem⟩ := nodeRead_of_written hP hs hi
    cases hl : isLeaf r with
    | true => exact ⟨.leaf r.SYM, ⟨r, hr, hl, rfl⟩, Nat.zero_le _⟩
    | false =>
      have hchild : ∀ k ∈ kids r, ∃ t, treeAt s.NODE t k ∧ depthOf t < (innerUpTo μ s.NODE (μ i.toNat)).length :=
        fun k hk => by
          have hlt := hμ _ hmem k hk
          obtain ⟨t, ht, hdepth⟩ := ih _ hlt (kids_written hs hmem hk) rfl
          exact ⟨t, ht, Nat.lt_of_le_of_lt hdepth (length_innerUpTo_lt hmem hl hlt)⟩
      have hkids := kids_of_inner (hpairs _ hmem) hl
      obtain ⟨a, ha, hda⟩ := hchild r.L (by simp [hkids])
      obtain ⟨b, hb, hdb⟩ := hchild r.R (by simp [hkids])
      exact ⟨.node a b, ⟨r, hr, hl, ha, hb⟩, Nat.succ_le_of_lt (Nat.max_lt.mpr ⟨hda, hdb⟩)⟩

/-- ROOT is `NIL` or stands for a tree no deeper than the longest bit-string (R40). -/
def HoldsTree (s : State P) : Prop :=
  s.ROOT = NIL ∨ ∃ t, treeAt s.NODE t s.ROOT ∧ depthOf t ≤ P.MAX_CODE_LEN

/-- With ownership and no record with exactly one child, the state holds a tree (R33, R35, R170). -/
theorem StoreFacts.holdsTree {s : State P} (hP : P.ok) (h : StoreFacts s) (hown : Owned s)
    (hpairs : ∀ c ∈ s.NODE, oneChild c.2 = false) : HoldsTree s := by
  obtain ⟨hnodup, hchild, -, hway, -⟩ := hown
  have hs := storeInv_iff.mpr h
  refine (em (s.ROOT = NIL)).imp_right fun hroot => ?_
  have hwritten := root_written hs hroot
  obtain ⟨μ, hμ⟩ := exists_measure_falling_along_links hs hway
  obtain ⟨t, ht, hdepth⟩ := exists_treeAt_le_innerUpTo hP hs hpairs hμ hwritten
  have hkids := h.length_allKids_lt hnodup hwritten hchild
  have htwo := two_mul_length_innerUpTo_le hpairs μ (μ s.ROOT.toNat)
  have hcap := h.store.cap
  obtain ⟨-, -, -, -, hnode, -, -, hmax, -⟩ := hP
  exact ⟨t, ht, by omega⟩

end Sys2Proof.Machine
end

section
/-! PROOFS. The invariant behind NoRunStops: beside StoreInv, FlagInv and ownership, the bounds of BUILD (R119), of the
traversal (R170) and of the other commands' inputs. Every move keeps it. -/

namespace Sys2Proof.Machine

variable {P : Params}

/-- A listed cell can be read at its key. -/
theorem cellGet_of_mem {α : Type} {m : List (Nat × α)} {c : Nat × α} (hm : (m.map Prod.fst).Pairwise (· < ·))
    (hc : c ∈ m) : cellGet m c.1 = some c.2 := by
  induction m with
  | nil => cases hc
  | cons x m ih =>
    obtain ⟨hlt, hm⟩ := List.pairwise_cons.mp hm
    rcases List.mem_cons.mp hc with rfl | hc
    · simp [cellGet]
    · have hne : x.1 ≠ c.1 := Nat.ne_of_lt (hlt _ (List.mem_map_of_mem hc))
      simp [cellGet, hne, ih hm hc]

/-! What each command needs. -/

/-- The scan is at a symbol, and has made and queued at most one node for each symbol before it (R27, R112, R117). -/
structure ScanFacts (s : State P) : Prop where
  bound : s.FREQ ≠ none
  symbol : s.I.toNat < P.N_SYM
  made : s.NEXT.toNat ≤ s.I.toNat
  queued : s.PQ.length ≤ s.I.toNat

/-- Every merge to come has a record left, and no record has exactly one child (R117, R119). -/
structure BuildFacts (s : State P) : Prop where
  room : s.NEXT.toNat + s.PQ.length ≤ 2 * P.N_SYM
  pairs : ∀ c ∈ s.NODE, oneChild c.2 = false

/-- RESTORE's input is bound, and the accumulator of a symbol line is a symbol of the alphabet (R43, R134). -/
structure RestoreFacts (s : State P) : Prop where
  bound : s.IN_TEXT ≠ none
  symbol : s.PHASE = .rSym → s.SYMACC.toNat < P.N_SYM

/-- The entry at position `k` of the stack stands for a stored tree that ends within the longest bit-string, and is at
least `k` links below the root (R40, R170). -/
def EntryOk (m : Memory P) (k : Nat) (e : StackEntry P) : Prop :=
  k ≤ e.d.toNat ∧ ∃ t, treeAt m t e.n ∧ e.d.toNat + depthOf t ≤ P.MAX_CODE_LEN

/-- The lowest `n` entries of the stack are written, each as it should be. -/
def EntriesOk (m : Memory P) (st : StackMemory P) (n : Nat) : Prop :=
  ∀ k < n, ∃ e, cellGet st k = some e ∧ EntryOk m k e

/-- A node stands for a tree with children wherever the root has children (R187). -/
def InnerAt (s : State P) (i : Idx P) : Prop :=
  ∀ root, nodeRead s.NODE s.ROOT = .ok root → isLeaf root = false → ∃ a b, treeAt s.NODE (.node a b) i

/-- DECODE's input is bound, and the cursor is at a node with children where the root has children (R43, R187). -/
structure DecodeFacts (s : State P) : Prop where
  bound : s.IN_BITS ≠ none
  cursor : InnerAt s s.CUR

/-- The invariant of every run from reset. -/
structure RunInv (s : State P) : Prop where
  store : StoreFacts s
  flags : FlagInv s
  owned : Owned s
  tree : s.TV = true → HoldsTree s
  scanning : s.PHASE = .bScan → ScanFacts s
  building : InBuild s → BuildFacts s
  restoring : InRestore s → RestoreFacts s
  walking : s.PHASE = .sWalk → EntriesOk s.NODE s.STACK s.SP.toNat
  decoding : s.PHASE = .dRun → DecodeFacts s

/-! BUILD. -/

theorem oneChild_of_isLeaf {r : NodeRec P} (h : isLeaf r = true) : oneChild r = false := by
  simp only [isLeaf, Bool.and_eq_true, beq_iff_eq] at h
  simp [oneChild, h]

/-- The set with one more member has at most one member more (R56). -/
theorem Enqueued.length_le {i : Idx P} {q q' : List (Idx P)} (h : Enqueued i q q') (hq : queueWf q = true) :
    q'.length ≤ q.length + 1 :=
  ((nodup_of_queueWf (h.form hq)).subperm (l₂ := i :: q) fun j hj => by simpa using (h.mem j).mp hj).length_le

/-- The scan index does not wrap within the alphabet (R10, R27). -/
theorem scan_add_one_toNat (hP : P.ok) {i : BitVec (P.SYM_BITS + 1)} (hi : i.toNat < P.N_SYM) :
    (i + 1).toNat = i.toNat + 1 := by
  have hsym := n_sym_le hP
  have hpow : 2 ^ (P.SYM_BITS + 1) = 2 * 2 ^ P.SYM_BITS := Nat.pow_succ'
  exact BitVec.toNat_add_of_lt (by simp; omega) |>.trans (by simp)

/-- The scan goes on only while there is a further symbol (R112). -/
theorem scanNext_symbol (hP : P.ok) {s : State P} (hI : s.I.toNat < P.N_SYM) (hp : (scanNext s).PHASE = .bScan) :
    s.I.toNat + 1 < P.N_SYM := by
  have hlast : s.I + 1 ≠ BitVec.ofNat (P.SYM_BITS + 1) P.N_SYM := fun e => by
    have hmerge : (scanNext s).PHASE = .bMerge := if_pos e
    cases hmerge.symm.trans hp
  by_contra hge
  refine hlast (BitVec.eq_of_toNat_eq ?_)
  have hsym := n_sym_le hP
  have hpow : 2 ^ (P.SYM_BITS + 1) = 2 * 2 ^ P.SYM_BITS := Nat.pow_succ'
  rw [scan_add_one_toNat hP hI, BitVec.toNat_ofNat, Nat.mod_eq_of_lt (by omega)]
  omega

/-- A scan step makes and queues at most one node more than there were symbols before it (R112, R117). -/
theorem ScanFacts.scanNext (hP : P.ok) {s : State P} (hbound : s.FREQ ≠ none) (hI : s.I.toNat < P.N_SYM)
    (hmade : s.NEXT.toNat ≤ s.I.toNat + 1) (hqueued : s.PQ.length ≤ s.I.toNat + 1)
    (hp : (scanNext s).PHASE = .bScan) : ScanFacts (scanNext s) := by
  have hnext : (Machine.scanNext s).I.toNat = s.I.toNat + 1 := scan_add_one_toNat hP hI
  exact { bound := hbound, symbol := hnext ▸ scanNext_symbol hP hI hp, made := hnext ▸ hmade
          queued := hnext ▸ hqueued }

/-- Every move keeps the bounds of the scan. -/
theorem Move.scanning (hP : P.ok) {s t : State P} (hm : Move s t) (h : RunInv s) (ht : t.PHASE = .bScan) :
    ScanFacts t := by
  cases hm with
  | rest => exact { h.scanning ht with }
  | buildStart hp =>
    obtain ⟨hn, -⟩ := hP
    exact { bound := Option.some_ne_none _, symbol := hn, made := Nat.zero_le _, queued := Nat.zero_le _ }
  | scanSkip hp hI =>
    have hscan := h.scanning hp
    exact .scanNext hP hscan.bound hI (Nat.le_succ_of_le hscan.made) (Nat.le_succ_of_le hscan.queued) ht
  | scanLeaf hp hI hc hcap hq =>
    have hscan := h.scanning hp
    exact .scanNext hP hscan.bound hI ((next_add_one_toNat hP hcap).trans_le (Nat.succ_le_succ hscan.made))
      ((hq.length_le h.store.queueForm).trans (Nat.succ_le_succ hscan.queued)) ht
  | merge hp | digit hp | bitDown hp | bitGrow hp | walkLeaf hp | walkInner hp | bitSingle hp | bitLeaf hp
  | bitInner hp => cases hp.symm.trans ht
  | _ => cases ht

/-- A node added under BUILD, a leaf or one with two children, leaves room for the merges to come (R117, R119). -/
theorem BuildFacts.added (hP : P.ok) {s : State P} (h : BuildFacts s) (hcap : s.NEXT.toNat < P.NODE_CAP) {r : NodeRec P}
    (hone : oneChild r = false) {q : List (Idx P)} (hroom : s.NEXT.toNat + 1 + q.length ≤ 2 * P.N_SYM) :
    BuildFacts { s with NODE := cellPut s.NODE s.NEXT.toNat r, NEXT := s.NEXT + 1, PQ := q } where
  room := by rwa [next_add_one_toNat hP hcap]
  pairs c hc := by
    rcases mem_cellPut hc with rfl | hc
    · exact hone
    · exact h.pairs c hc

/-- Every move keeps the bounds of BUILD. -/
theorem Move.building (hP : P.ok) {s t : State P} (hm : Move s t) (h : RunInv s) (ht : InBuild t) : BuildFacts t := by
  cases hm with
  | rest => exact { h.building ht with }
  | buildStart hp => exact { room := Nat.zero_le _, pairs := List.forall_mem_nil _ }
  | scanSkip hp => exact { h.building (.inl hp) with }
  | @scanLeaf hp hI c hc hcap q hq =>
    have hone : oneChild (leafNode s.I c) = false := oneChild_of_isLeaf (by simp [isLeaf, leafNode])
    have hroom : s.NEXT.toNat + 1 + q.length ≤ 2 * P.N_SYM := by
      have hlen := hq.length_le h.store.queueForm
      have hmade := (h.scanning hp).made
      have hqueued := (h.scanning hp).queued
      omega
    exact { (h.building (.inl hp)).added hP hcap hone hroom with }
  | @merge hp a b q1 q2 q ra rb ha hb hra hrb hcap hq =>
    obtain ⟨hma, rfl⟩ := extractMin_eq_ok ha
    obtain ⟨hmb, rfl⟩ := extractMin_eq_ok hb
    have hbuild := h.building (.inr hp)
    have hone : oneChild (mergedNode ra.W rb.W a b) = false := by
      have hnil := h.store.queued_ne_nil hP hma
      have hnil' := h.store.queued_ne_nil hP (List.mem_of_mem_erase hmb)
      simp [oneChild, mergedNode, hnil, hnil']
    have hlen := hq.length_le (h.store.dequeue (List.erase_sublist.trans List.erase_sublist)).queueForm
    have hroom := hbuild.room
    rw [List.length_erase_of_mem hmb, List.length_erase_of_mem hma] at hlen
    have hpos := List.length_pos_of_mem hmb
    rw [List.length_erase_of_mem hma] at hpos
    exact hbuild.added hP hcap hone (by omega)
  | digit hp | bitDown hp | bitGrow hp | walkLeaf hp | walkInner hp | bitSingle hp | bitLeaf hp | bitInner hp =>
    rcases ht with ht | ht <;> cases hp.symm.trans ht
  | _ => rcases ht with ht | ht <;> cases ht

/-! RESTORE. -/

/-- Every move keeps what RESTORE needs. -/
theorem Move.restoring (hP : P.ok) {s t : State P} (hm : Move s t) (h : RunInv s) (ht : InRestore t) :
    RestoreFacts t := by
  obtain ⟨hn, -⟩ := hP
  have hzero : (0 : BitVec (P.SYM_BITS + 4)).toNat < P.N_SYM := Nat.lt_of_lt_of_le Nat.zero_lt_one hn
  cases hm with
  | rest => exact { h.restoring ht with }
  | restoreStart | bitsLf => exact ⟨Option.some_ne_none _, fun _ => hzero⟩
  | digit hp hin hacc => exact ⟨Option.some_ne_none _, fun _ => hacc⟩
  | symLf => exact ⟨Option.some_ne_none _, nofun⟩
  | bitDown hp | bitGrow hp => exact ⟨Option.some_ne_none _, fun hsym => by cases hp.symm.trans hsym⟩
  | scanSkip hp | scanLeaf hp => exact absurd (scanNext_inBuild hp) (not_inBuild_of_inRestore ht)
  | merge hp | walkLeaf hp | walkInner hp | bitSingle hp | bitLeaf hp | bitInner hp =>
    rcases ht with ht | ht <;> cases hp.symm.trans ht
  | _ => rcases ht with ht | ht <;> cases ht

/-! The tree. -/

/-- A complete table has no record with exactly one child (R148). -/
theorem StoreFacts.pairs_of_anyOneChild (hP : P.ok) {s : State P} (h : StoreFacts s)
    (hone : anyOneChild s.NODE s.NEXT.toNat = .ok false) : ∀ c ∈ s.NODE, oneChild c.2 = false := by
  intro c hc
  by_contra hne
  have hlt : c.1 < s.NEXT.toNat := by
    have : c.1 ∈ s.NODE.map Prod.fst := List.mem_map_of_mem hc
    simpa [h.store.keys] using this
  have hidx : (BitVec.ofNat P.IDX_BITS c.1).toNat = c.1 := by
    have hcap := h.store.cap
    obtain ⟨-, -, -, -, -, -, hnode, -⟩ := hP
    rw [BitVec.toNat_ofNat, Nat.mod_eq_of_lt (by omega)]
  have hread : nodeRead s.NODE (BitVec.ofNat P.IDX_BITS c.1) = .ok c.2 := by
    refine nodeRead_eq_ok.mpr ⟨ne_nil_of_lt_cap hP (by rw [hidx]; exact hlt.trans_le h.store.cap), ?_⟩
    rw [hidx]
    exact cellGet_of_mem h.store.keys_pairwise hc
  obtain ⟨-, hiff⟩ := anyOneChild_eq_ok hone
  exact absurd (hiff.mpr ⟨c.1, c.2, hlt, hread, by simpa using hne⟩) (by decide)

/-- With TV 1 every move leaves a tree: it finishes one, or leaves the one there was (R23, R116, R148). -/
theorem Move.tree (hP : P.ok) {s t : State P} (hm : Move s t) (h : RunInv s) (hstore : StoreFacts t)
    (hflags : FlagInv t) (howned : Owned t) (ht : t.TV = true) : HoldsTree t := by
  have hno : ¬ (InBuild t ∨ InRestore t) := fun hc => by
    obtain ⟨-, hnoTree, -⟩ := hflags
    simp [hnoTree hc] at ht
  cases hm with
  | buildFinish hp => exact hstore.holdsTree hP howned (h.building (.inr hp)).pairs
  | tableEmpty => exact .inl rfl
  | tableDone hp hn hcf hone => exact hstore.holdsTree hP howned (h.store.pairs_of_anyOneChild hP hone)
  | buildStart => exact absurd (.inl (.inl rfl)) hno
  | scanSkip hp | scanLeaf hp => exact absurd (.inl (scanNext_inBuild hp)) hno
  | merge hp => exact absurd (.inl (.inr hp)) hno
  | restoreStart | bitsLf => exact absurd (.inr (.inl rfl)) hno
  | bitGrow hp => exact absurd (.inr (.inr hp)) hno
  | rest | refuse | digit | symLf | bitDown | restoreFault | walkStartEmpty | walkStart | walkLeaf | walkInner | walkEnd
  | decodeStart | decodeFault | bitSingle | bitLeaf | bitInner | decodeEnd => exact h.tree ht

/-! SERIALIZE. -/

theorem toNat_pos_of_ne_zero {n : Nat} {x : BitVec n} (h : x ≠ 0) : 0 < x.toNat :=
  Nat.pos_of_ne_zero fun e => h (BitVec.eq_of_toNat_eq (by simpa using e))

theorem EntriesOk.mono {m : Memory P} {st : StackMemory P} {n n' : Nat} (h : EntriesOk m st n) (hn : n' ≤ n) :
    EntriesOk m st n' :=
  fun k hk => h k (Nat.lt_of_lt_of_le hk hn)

/-- An entry put on top. -/
theorem EntriesOk.push {m : Memory P} {st : StackMemory P} {n : Nat} (h : EntriesOk m st n) {e : StackEntry P}
    (he : EntryOk m n e) : EntriesOk m (cellPut st n e) (n + 1) := by
  intro k hk
  by_cases hkn : k = n
  · subst hkn
    exact ⟨e, cellGet_cellPut_same .., he⟩
  · rw [cellGet_cellPut_ne _ _ hkn]
    exact h k (by omega)

/-- A depth below the longest bit-string does not wrap when it grows (R10, R40). -/
theorem depth_add_one_toNat (hP : P.ok) {d : BitVec P.SYM_BITS} (hd : d.toNat < P.MAX_CODE_LEN) :
    (d + 1).toNat = d.toNat + 1 := by
  have hsym := n_sym_le hP
  obtain ⟨-, hbits, -, -, -, -, -, hmax, -⟩ := hP
  have hone : (1 : BitVec P.SYM_BITS).toNat = 1 := BitVec.toNat_one (by omega)
  rw [BitVec.toNat_add, hone, Nat.mod_eq_of_lt (by omega)]

/-- The children of an entry's node, one link further down, make good entries at its position and the next (R162). -/
theorem EntryOk.children (hP : P.ok) {m : Memory P} {k : Nat} {e : StackEntry P} (he : EntryOk m k e) {r : NodeRec P}
    (hr : nodeRead m e.n = .ok r) (hl : isLeaf r = false) :
    e.d.toNat < P.MAX_CODE_LEN ∧ EntryOk m k ⟨r.R, e.d + 1, true⟩ ∧ EntryOk m (k + 1) ⟨r.L, e.d + 1, false⟩ := by
  obtain ⟨hk, t, ht, hdepth⟩ := he
  obtain ⟨a, b, rfl, ha, hb⟩ := exists_subtrees_of_treeAt ht hr hl
  simp only [depthOf] at hdepth
  have hlt : e.d.toNat < P.MAX_CODE_LEN := by omega
  have hd := depth_add_one_toNat hP hlt
  refine ⟨hlt, ⟨?_, b, hb, ?_⟩, ⟨?_, a, ha, ?_⟩⟩ <;> simp only [hd] <;> omega

/-- Every move keeps the entries of the traversal. -/
theorem Move.walking (hP : P.ok) {s t : State P} (hm : Move s t) (h : RunInv s) (ht : t.PHASE = .sWalk) :
    EntriesOk t.NODE t.STACK t.SP.toNat := by
  cases hm with
  | rest => exact h.walking ht
  | walkStartEmpty => exact fun k hk => absurd hk (Nat.not_lt_zero k)
  | walkStart hp hv hroot =>
    obtain ⟨tree, htree, hdepth⟩ := (h.tree hv).resolve_left hroot
    have hsp : (1 : BitVec (P.SYM_BITS + 1)).toNat = 0 + 1 := by simp
    rw [hsp]
    exact EntriesOk.push (fun k hk => absurd hk (Nat.not_lt_zero k)) ⟨Nat.zero_le _, tree, htree, by simpa using hdepth⟩
  | walkLeaf hp hsp =>
    have hsub := sub_one_toNat hsp
    exact (h.walking hp).mono (hsub ▸ Nat.sub_le _ _)
  | @walkInner hp hsp e he r hr hl hd hcap =>
    have hsub := sub_one_toNat hsp
    have htwo : (s.SP - 1 + 2).toNat = (s.SP - 1).toNat + 1 + 1 := sp_add_toNat hP hcap
    have hwalk := h.walking hp
    obtain ⟨e', he', hok⟩ := hwalk (s.SP.toNat - 1) (Nat.sub_one_lt_of_lt (toNat_pos_of_ne_zero hsp))
    obtain rfl := Option.some.inj (he.symm.trans he')
    obtain ⟨-, hright, hleft⟩ := hok.children hP hr hl
    simp only [htwo]
    rw [← hsub] at hright hleft
    exact ((hwalk.mono (hsub ▸ Nat.sub_le _ _)).push hright).push hleft
  | scanSkip hp | scanLeaf hp => rcases scanNext_inBuild hp with hb | hb <;> cases hb.symm.trans ht
  | merge hp | digit hp | bitDown hp | bitGrow hp | bitSingle hp | bitLeaf hp | bitInner hp => cases hp.symm.trans ht
  | _ => cases ht

/-! DECODE. -/

/-- The root of the tree stands for one with children where it has children. -/
theorem HoldsTree.innerAt_root {s : State P} (h : HoldsTree s) : InnerAt s s.ROOT := by
  intro root hroot hl
  obtain ⟨t, ht, -⟩ := h.resolve_left (nodeRead_ne_nil hroot)
  obtain ⟨a, b, rfl, -⟩ := exists_subtrees_of_treeAt ht hroot hl
  exact ⟨a, b, ht⟩

/-- The child a bit leads to from a tree with children stands for a tree (R184). -/
theorem exists_treeAt_childOf {m : Memory P} {a b : CodeTree P} {i : Idx P} (h : treeAt m (.node a b) i) {r : NodeRec P}
    (hr : nodeRead m i = .ok r) (x : Bool) : ∃ t, treeAt m t (childOf x r) := by
  obtain ⟨r', hr', -, ha, hb⟩ := h
  obtain rfl := Except.ok.inj (hr.symm.trans hr')
  cases x
  · exact ⟨a, ha⟩
  · exact ⟨b, hb⟩

/-- Every move keeps what DECODE needs. -/
theorem Move.decoding {s t : State P} (hm : Move s t) (h : RunInv s) (ht : t.PHASE = .dRun) : DecodeFacts t := by
  have htree (hp : s.PHASE = .dRun) : HoldsTree s := by
    obtain ⟨-, -, hvalid, -⟩ := h.flags
    exact h.tree (hvalid (.inr hp))
  cases hm with
  | rest => exact { h.decoding ht with }
  | decodeStart hp hv => exact ⟨Option.some_ne_none _, (h.tree hv).innerAt_root⟩
  | bitSingle hp => exact ⟨Option.some_ne_none _, (h.decoding hp).cursor⟩
  | bitLeaf hp => exact ⟨Option.some_ne_none _, (htree hp).innerAt_root⟩
  | @bitInner hp x bs hin root cur r hroot hinner hcur b hr hl =>
    refine ⟨Option.some_ne_none _, fun _ _ _ => ?_⟩
    obtain ⟨a, c, hnode⟩ := (h.decoding hp).cursor root hroot hinner
    obtain ⟨t, ht⟩ := exists_treeAt_childOf hnode hcur b
    obtain ⟨a', c', rfl, -⟩ := exists_subtrees_of_treeAt ht hr hl
    exact ⟨a', c', ht⟩
  | scanSkip hp | scanLeaf hp => rcases scanNext_inBuild hp with hb | hb <;> cases hb.symm.trans ht
  | merge hp | digit hp | bitDown hp | bitGrow hp | walkLeaf hp | walkInner hp => cases hp.symm.trans ht
  | _ => cases ht

/-! Together. -/

/-- Every move keeps the invariant. -/
theorem Move.runInv (hP : P.ok) {s t : State P} (hm : Move s t) (h : RunInv s) : RunInv t :=
  have store := hm.storeFacts hP h.store
  have flags := hm.flagInv h.flags
  have owned := hm.owned hP h.store h.flags h.owned
  { store, flags, owned
    tree := hm.tree hP h store flags owned
    scanning := hm.scanning hP h
    building := hm.building hP h
    restoring := hm.restoring hP h
    walking := hm.walking hP h
    decoding := hm.decoding h }

/-- The block after reset meets the invariant, whatever the host's side (R230). -/
theorem RunInv.blockReset (hP : P.ok) (s : State P) : RunInv (blockReset s) := by
  obtain ⟨hstore, hflags, -, -, -, howned⟩ := blockReset_invariants hP s
  exact {
    store := storeInv_iff.mp hstore
    flags := hflags
    owned := howned
    tree := nofun
    scanning := nofun
    building := by simp [Machine.blockReset, resetAt]
    restoring := by simp [Machine.blockReset, resetAt]
    walking := nofun
    decoding := nofun }

/-- The host's turn keeps the invariant (R103). -/
theorem RunInv.hostTurn (hP : P.ok) {s : State P} (h : RunInv s) (o : Offer P) (sc : List (HostEvent P)) :
    RunInv { s with offer := o, script := sc } :=
  (Move.rest o sc s.statusReads).runInv hP h

/-- Every step keeps the invariant. -/
theorem stepAt_runInv (hP : P.ok) {s t : State P} (hs : RunInv s) (h : stepAt s = .next t) : RunInv t := by
  obtain ⟨rest, -, rfl⟩ | ⟨-, o, sc, hm⟩ := stepAt_cases h
  · exact .blockReset hP _
  · exact hm.runInv hP (hs.hostTurn hP o sc)

end Sys2Proof.Machine
end

section
/-! PROOFS. NoRunStops (R9, R36, R119, R170): in a state with the invariant of RunInv every step answers a next state, so
no run from reset stops. -/

namespace Sys2Proof.Machine

variable {P : Params}

/-- What `fetch` answers, run: an instruction or an engine step that is none. -/
def runWork (w : Work) (s : State P) : Host.Outcome (State P) Fault Refusal :=
  match w with
  | .instr i => execAt i s
  | .internal k => runInternal k s

theorem stepAt_eq_runWork {s s1 : State P} {w : Work} (h : fetch s = (w, s1)) : stepAt s = runWork w s1 := by
  cases w <;> simp only [stepAt, h, runWork]

/-! The formats of decoded words. -/

theorem format_decodeCmd (w : BitVec 3) : (decodeCmd w).format = .cmd := by
  simp only [decodeCmd, apply_ite Instr.format]
  simp only [Instr.format, ite_self]

theorem format_decodeBit (b : Bool) : (decodeBit b).format = .bit := by
  cases b <;> rfl

theorem format_decodeSymChar (c : Byte) : (decodeSymChar c).format = .symLine := by
  simp only [decodeSymChar, apply_ite Instr.format]
  simp only [Instr.format, ite_self]

theorem format_decodeBitsChar (c : Byte) : (decodeBitsChar c).format = .bitsLine := by
  simp only [decodeBitsChar, apply_ite Instr.format]
  simp only [Instr.format, ite_self]

/-! The operations within their preconditions. -/

/-- An operation in two parts answers when its first part does and its second does from there. -/
theorem exists_op_bind {α β : Type} {o : Op α} {f : α → Op β} {a : α} (ha : o = .ok a) (hf : ∃ b, f a = .ok b) :
    ∃ b, (o >>= f) = .ok b :=
  hf.imp fun _ hb => op_bind_eq_ok.mpr ⟨a, ha, hb⟩

/-- An operation that answers settles to a next state. -/
theorem exists_settle {o : Op (State P)} (h : ∃ t, o = .ok t) : ∃ t, settle o = .next t :=
  h.imp fun _ ht => settle_eq_next.mpr ht

/-- `alloc` answers while the store has room (R54). -/
theorem alloc_of_lt (r : NodeRec P) {s : State P} (h : s.NEXT.toNat < P.NODE_CAP) :
    alloc r s = .ok (s.NEXT.setWidth P.IDX_BITS,
      { s with NODE := cellPut s.NODE s.NEXT.toNat r, NEXT := s.NEXT + 1 }) :=
  alloc_eq_ok.mpr ⟨h, rfl, rfl⟩

/-- An index below NEXT reads a record (R36). -/
theorem StoreFacts.readable (hP : P.ok) {s : State P} (h : StoreFacts s) {i : Idx P} (hi : i.toNat < s.NEXT.toNat) :
    ∃ r, nodeRead s.NODE i = .ok r := by
  obtain ⟨r, hr, -⟩ := nodeRead_of_written hP (storeInv_iff.mpr h) hi
  exact ⟨r, hr⟩

/-- `PQ.insert` answers while the queue has room (R38, R56). -/
theorem exists_pqInsert (i : Idx P) {s : State P} (h : s.PQ.length < P.PQ_CAP) : ∃ t, pqInsert i s = .ok t := by
  unfold pqInsert
  rw [if_pos h]
  split <;> exact ⟨_, rfl⟩

/-- FREQ answers for a symbol of the alphabet while it is bound (R60). -/
theorem exists_freqAt {s : State P} {i : Nat} (hbound : s.FREQ ≠ none) (hi : i < P.N_SYM) :
    ∃ c, freqAt s i = .ok c := by
  obtain ⟨f, hf⟩ := Option.ne_none_iff_exists'.mp hbound
  have hget : f.toList[i]? = some (f.toList[i]'(by simpa using hi)) := List.getElem?_eq_getElem _
  exact ⟨_, by simp only [freqAt, hf, hget]; rfl⟩

/-- The end-of-table scan answers on written records (R148). -/
theorem exists_anyOneChild {m : Memory P} {n : Nat} (h : ∀ i < n, ∃ r, nodeRead m (BitVec.ofNat P.IDX_BITS i) = .ok r) :
    ∃ b, anyOneChild m n = .ok b := by
  induction n with
  | zero => exact ⟨_, rfl⟩
  | succ n ih =>
    obtain ⟨r, hr⟩ := h n (Nat.lt_succ_self n)
    obtain ⟨b, hb⟩ := ih fun i hi => h i (Nat.lt_succ_of_lt hi)
    exact exists_op_bind hr (exists_op_bind hb ⟨_, rfl⟩)

/-! Commands. -/

/-- A command answers when its action in IDLE does (R85). -/
theorem exists_accept {k : State P → Op (State P)} {s : State P} (hk : ∃ t, k s = .ok t) :
    ∃ t, accept k s = .next t := by
  obtain ⟨t, ht⟩ := hk
  by_cases hp : s.PHASE = .idle
  · exact ⟨t, accept_eq_next.mpr (.inl ⟨hp, ht⟩)⟩
  · exact ⟨s, accept_eq_next.mpr (.inr ⟨hp, rfl⟩)⟩

/-- The store has room for the placeholder root (R131). -/
theorem exists_restoreStart (hP : P.ok) (s : State P) : ∃ t, restoreStart s = .ok t := by
  have hcap : (dropTree s).NEXT.toNat < P.NODE_CAP := by
    obtain ⟨hn, -, -, -, hcap, -⟩ := hP
    rw [dropTree_NEXT, BitVec.ofNat_eq_ofNat, BitVec.toNat_ofNat, Nat.zero_mod]
    omega
  exact exists_op_bind (alloc_of_lt _ hcap) ⟨_, rfl⟩

/-- A command always answers (R85). -/
theorem exists_execAt_cmd (hP : P.ok) {i : Instr} (hi : i.format = .cmd) (s : State P) : ∃ t, execAt i s = .next t := by
  cases i with
  | build => exact exists_accept (k := fun s => .ok (buildStart (bindFreq s))) ⟨_, rfl⟩
  | restore => exact exists_accept (k := fun s => restoreStart (bindText s)) (exists_restoreStart hP _)
  | serialize => exact exists_accept (k := needTree serializeStart) ⟨_, rfl⟩
  | decode => exact exists_accept (k := needTree fun s => decodeStart (bindBits s)) ⟨_, rfl⟩
  | reserved0 | reserved5 | reserved6 | reserved7 => exact exists_accept (k := badCmd) ⟨_, rfl⟩
  | _ => cases hi

/-! BUILD. -/

/-- A scan step finds its count, and room for the leaf and in the queue (R112, R117). -/
theorem RunInv.exists_buildScan (hP : P.ok) {s : State P} (h : RunInv s) (hp : s.PHASE = .bScan) :
    ∃ t, buildScan s = .ok t := by
  obtain ⟨hbound, hsymbol, hmade, hqueued⟩ := h.scanning hp
  obtain ⟨c, hc⟩ := exists_freqAt hbound hsymbol
  have hcount : ∃ t, scanCount c s = .ok t := by
    unfold scanCount
    split
    · obtain ⟨-, -, -, -, hnode, -, -, -, hqueue, -⟩ := hP
      have hcap : s.NEXT.toNat < P.NODE_CAP := by omega
      have hroom : s.PQ.length < P.PQ_CAP := by omega
      exact exists_op_bind (alloc_of_lt _ hcap) (exists_pqInsert _ hroom)
    · exact ⟨s, rfl⟩
  obtain ⟨t, ht⟩ := hcount
  exact exists_op_bind hc (exists_op_bind ht ⟨_, rfl⟩)

/-- A merge step finds its two members' records, and room for the node and in the queue (R114, R119). -/
theorem RunInv.exists_buildMerge (hP : P.ok) {s : State P} (h : RunInv s) (hp : s.PHASE = .bMerge)
    (hq : 2 ≤ s.PQ.length) : ∃ t, buildMerge s = .ok t := by
  have hread : ∀ i ∈ s.PQ, ∃ r, nodeRead s.NODE i = .ok r := fun i hi => h.store.readable hP (h.store.queued i hi)
  obtain ⟨a, ra, ha, hma, hra, -⟩ := exists_extractMin (List.ne_nil_of_length_pos (by omega)) hread
  have hlen := List.length_erase_of_mem hma
  obtain ⟨b, rb, hb, hmb, hrb, -⟩ := exists_extractMin (q := s.PQ.erase a) (List.ne_nil_of_length_pos (by omega))
    fun i hi => hread i (List.mem_of_mem_erase hi)
  have hlen' := List.length_erase_of_mem hmb
  have hbuild := (h.building (.inr hp)).room
  have hqueue := h.store.queueCap
  have hcap : s.NEXT.toNat < P.NODE_CAP := by
    obtain ⟨-, -, -, -, hnode, -⟩ := hP
    omega
  have hroom : ((s.PQ.erase a).erase b).length < P.PQ_CAP := by omega
  exact exists_op_bind ha <| exists_op_bind hb <| exists_op_bind hra <| exists_op_bind hrb <|
    exists_op_bind (alloc_of_lt _ hcap) (exists_pqInsert _ hroom)

/-! RESTORE. -/

/-- A character answers in its phase when the step of its class does (R133). -/
theorem exists_onChar {p : Phase} {k : State P → Op (State P)} {s : State P} {c : Byte} {cs : List Byte}
    (hp : s.PHASE = p) (hin : s.IN_TEXT = some (c :: cs)) (hk : ∃ t, k { s with IN_TEXT := some cs } = .ok t) :
    ∃ t, onChar p k s = .next t := by
  obtain ⟨t, ht⟩ := hk
  exact ⟨t, onChar_eq_next.mpr ⟨hp, c, cs, hin, ht⟩⟩

/-- The end of a symbol line finds its symbol in the alphabet (R135). -/
theorem exists_symLf {s : State P} (h : s.SYMACC.toNat < P.N_SYM) : ∃ t, symLf s = .ok t := by
  have hget : s.ASSIGNED.toList[s.SYMACC.toNat]? = some (s.ASSIGNED.toList[s.SYMACC.toNat]'(by simpa using h)) :=
    List.getElem?_eq_getElem _
  unfold symLf
  rw [hget]
  split
  · exact ⟨_, rfl⟩
  · cases s.ASSIGNED.toList[s.SYMACC.toNat]'(by simpa using h) <;> exact ⟨_, rfl⟩

/-- RESTORE's cursor reads a record (R36, R140). -/
theorem StoreFacts.curb_readable (hP : P.ok) {s : State P} (h : StoreFacts s) (hp : InRestore s) :
    ∃ r, nodeRead s.NODE s.CURB = .ok r :=
  h.readable hP (h.curb hp)

/-- A missing child is made while the store has room (R142). -/
theorem StoreFacts.exists_makeChild (hP : P.ok) {s : State P} (h : StoreFacts s) (hp : InRestore s)
    (hcap : s.NEXT.toNat < P.NODE_CAP) (b : Bool) : ∃ p, makeChild b s = .ok p := by
  obtain ⟨r, hr⟩ := (h.alloc hP hcap (blankNode_recordOk hP _)).curb_readable hP hp
  exact exists_op_bind (alloc_of_lt _ hcap) (exists_op_bind hr ⟨_, rfl⟩)

/-- A bit of a bit-string line answers: a full store is a fault of the block (R140, R142). -/
theorem StoreFacts.exists_restoreBit (hP : P.ok) {s : State P} (h : StoreFacts s) (hp : InRestore s) (b : Bool) :
    ∃ t, restoreBit b s = .ok t := by
  obtain ⟨r, hr⟩ := h.curb_readable hP hp
  unfold restoreBit
  split
  · exact ⟨_, rfl⟩
  refine exists_op_bind hr ?_
  dsimp only
  split
  · split
    · exact ⟨_, rfl⟩
    · rename_i hfull
      have hcf : StoreFacts { s with CF := cfOnDescent s.CF r } := { h with }
      obtain ⟨_, hmake⟩ := hcf.exists_makeChild hP hp (Nat.lt_of_le_of_ne h.store.cap hfull) b
      exact exists_op_bind hmake ⟨_, rfl⟩
  · exact ⟨_, rfl⟩

/-- The end of the table reads written records only (R137, R148). -/
theorem StoreFacts.exists_symEof (hP : P.ok) {s : State P} (h : StoreFacts s) : ∃ t, symEof s = .ok t := by
  have hread : ∀ i < s.NEXT.toNat, ∃ r, nodeRead s.NODE (BitVec.ofNat P.IDX_BITS i) = .ok r := fun i hi =>
    h.readable hP (Nat.lt_of_le_of_lt (by rw [BitVec.toNat_ofNat]; exact Nat.mod_le _ _) hi)
  obtain ⟨bad, hbad⟩ := exists_anyOneChild hread
  unfold symEof restoreEnd
  split
  · exact ⟨_, rfl⟩
  split
  · exact ⟨_, rfl⟩
  split
  · exact ⟨_, rfl⟩
  exact exists_op_bind hbad ⟨_, rfl⟩

/-- A character on a symbol line answers (R134, R135, R136). -/
theorem RunInv.exists_execAt_symLine {s : State P} (h : RunInv s) (hp : s.PHASE = .rSym) {c : Byte} {cs : List Byte}
    (hin : s.IN_TEXT = some (c :: cs)) {i : Instr} (hi : i.format = .symLine) : ∃ t, execAt i s = .next t := by
  cases i with
  | symDigit0 | symDigit1 | symDigit2 | symDigit3 | symDigit4 | symDigit5 | symDigit6 | symDigit7 | symDigit8
  | symDigit9 => exact exists_onChar (k := symDigit _) hp hin ⟨_, rfl⟩
  | symLf => exact exists_onChar hp hin (exists_symLf ((h.restoring (.inl hp)).symbol hp))
  | symOther x => exact exists_onChar (k := symOther) hp hin ⟨_, rfl⟩
  | _ => cases hi

/-- A character on a bit-string line answers (R140, R143, R144). -/
theorem RunInv.exists_execAt_bitsLine (hP : P.ok) {s : State P} (h : RunInv s) (hp : s.PHASE = .rBits) {c : Byte}
    {cs : List Byte} (hin : s.IN_TEXT = some (c :: cs)) {i : Instr} (hi : i.format = .bitsLine) :
    ∃ t, execAt i s = .next t := by
  have hstore : StoreFacts { s with IN_TEXT := some cs } := { h.store with }
  cases i with
  | bits0 | bits1 => exact exists_onChar hp hin (hstore.exists_restoreBit hP (.inr hp) _)
  | bitsLf =>
    obtain ⟨r, hr⟩ := hstore.curb_readable hP (.inr hp)
    exact exists_onChar hp hin (exists_op_bind hr ⟨_, rfl⟩)
  | bitsOther x => exact exists_onChar (k := bitsOther) hp hin ⟨_, rfl⟩
  | _ => cases hi

/-! SERIALIZE and DECODE. -/

/-- A step of the traversal finds its entry and its node, and room for the children (R162, R170). -/
theorem RunInv.exists_serializeWalk (hP : P.ok) {s : State P} (h : RunInv s) (hp : s.PHASE = .sWalk) :
    ∃ t, serializeWalk s = .ok t := by
  unfold serializeWalk
  split
  · exact ⟨_, rfl⟩
  rename_i hsp
  have hpos := toNat_pos_of_ne_zero hsp
  obtain ⟨e, he, hok⟩ := h.walking hp (s.SP.toNat - 1) (Nat.sub_one_lt_of_lt hpos)
  have ⟨htop, t, ht, _⟩ := hok
  obtain ⟨r, hr⟩ := exists_nodeRead_of_treeAt ht
  have hr' : nodeAt (popEntry e s) e.n = .ok r := by rwa [popEntry_frame]
  refine exists_op_bind (stackAt_eq_ok.mpr he) (exists_op_bind hr' ?_)
  split
  · exact ⟨_, rfl⟩
  · rename_i hl
    obtain ⟨hdepth, -⟩ := hok.children hP hr (by simpa using hl)
    have hroom : (popEntry e s).SP.toNat + 2 ≤ P.STACK_CAP := by
      have hsub := sub_one_toNat hsp
      obtain ⟨-, -, -, -, -, -, -, hmax, -, hstack⟩ := hP
      rw [popEntry_frame, hsub]
      omega
    exact ⟨_, pushChildren_eq_ok.mpr ⟨Nat.ne_of_lt hdepth, hroom, rfl⟩⟩

/-- A decoder bit reads the root, and below a root with children the cursor and its child (R184, R185, R187). -/
theorem RunInv.exists_decodeRead (hP : P.ok) {s : State P} (h : RunInv s) (hp : s.PHASE = .dRun) (hroot : s.ROOT ≠ NIL)
    (b : Bool) (bs : List Bool) : ∃ t, decodeRead b { s with IN_BITS := some bs } = .ok t := by
  obtain ⟨root, hread⟩ := h.store.readable hP (h.store.root.resolve_left hroot)
  refine exists_op_bind hread ?_
  split
  · exact ⟨_, rfl⟩
  · rename_i hl
    obtain ⟨x, y, hnode⟩ := (h.decoding hp).cursor root hread (by simpa using hl)
    obtain ⟨cur, hcur⟩ := exists_nodeRead_of_treeAt hnode
    obtain ⟨t, ht⟩ := exists_treeAt_childOf hnode hcur b
    obtain ⟨r, hr⟩ := exists_nodeRead_of_treeAt ht
    exact exists_op_bind hcur (exists_op_bind hr ⟨_, rfl⟩)

/-- A decoder bit answers (R182). -/
theorem RunInv.exists_execAt_bit (hP : P.ok) {s : State P} (h : RunInv s) (hp : s.PHASE = .dRun) {x : Bool}
    {bs : List Bool} (hin : s.IN_BITS = some (x :: bs)) {i : Instr} (hi : i.format = .bit) :
    ∃ t, execAt i s = .next t := by
  have hbit (b : Bool) : ∃ t, onBit b s = .next t := by
    by_cases hroot : s.ROOT = NIL
    · exact ⟨_, onBit_eq_next.mpr ⟨hp, x, bs, hin, .inl ⟨hroot, rfl⟩⟩⟩
    · obtain ⟨t, ht⟩ := h.exists_decodeRead hP hp hroot b bs
      exact ⟨t, onBit_eq_next.mpr ⟨hp, x, bs, hin, .inr ⟨hroot, ht⟩⟩⟩
  cases i with
  | bitL => exact hbit false
  | bitR => exact hbit true
  | _ => cases hi

/-! Steps and runs. -/

/-- The engine's turn answers, whatever the phase (R101). -/
theorem RunInv.exists_engineTurn (hP : P.ok) {s : State P} (h : RunInv s) :
    ∃ t, runWork (engineWork s) s = .next t := by
  cases hp : s.PHASE with
  | idle | fault => exact ⟨s, by simp only [engineWork, hp, runWork, runInternal]⟩
  | bScan => simpa only [engineWork, hp, runWork, runInternal] using exists_settle (h.exists_buildScan hP hp)
  | bMerge =>
    by_cases hq : 2 ≤ s.PQ.length
    · simpa only [engineWork, hp, if_pos hq, runWork, runInternal] using exists_settle (h.exists_buildMerge hP hp hq)
    · exact ⟨buildFinish s, by simp only [engineWork, hp, if_neg hq, runWork, runInternal]⟩
  | rSym =>
    rcases hin : s.IN_TEXT with _ | _ | ⟨c, cs⟩
    · exact absurd hin (h.restoring (.inl hp)).bound
    · simpa only [engineWork, hp, hin, runWork, runInternal] using exists_settle (h.store.exists_symEof hP)
    · simpa only [engineWork, hp, hin, runWork] using h.exists_execAt_symLine hp hin (format_decodeSymChar c)
  | rBits =>
    rcases hin : s.IN_TEXT with _ | _ | ⟨c, cs⟩
    · exact absurd hin (h.restoring (.inr hp)).bound
    · exact ⟨bitsEof s, by simp only [engineWork, hp, hin, runWork, runInternal]⟩
    · simpa only [engineWork, hp, hin, runWork] using h.exists_execAt_bitsLine hP hp hin (format_decodeBitsChar c)
  | sWalk => simpa only [engineWork, hp, runWork, runInternal] using exists_settle (h.exists_serializeWalk hP hp)
  | dRun =>
    rcases hin : s.IN_BITS with _ | _ | ⟨b, bs⟩
    · exact absurd hin (h.decoding hp).bound
    · exact ⟨decodeEnd s, by simp only [engineWork, hp, hin, runWork, runInternal]⟩
    · simpa only [engineWork, hp, hin, runWork] using h.exists_execAt_bit hP hp hin (format_decodeBit b)

/-- A step from a state with the invariant answers a state with the invariant. -/
theorem RunInv.exists_stepAt (hP : P.ok) {s : State P} (h : RunInv s) : ∃ t, stepAt s = .next t ∧ RunInv t := by
  have hstep : ∃ t, stepAt s = .next t := by
    obtain ⟨-, hf⟩ | ⟨rest, -, hf⟩ | ⟨w, o, rest, -, hf⟩ | ⟨rest, -, hf⟩ | ⟨rest, -, hf⟩ := fetch_cases s <;>
      rw [stepAt_eq_runWork hf]
    · exact h.exists_engineTurn hP
    · exact (h.hostTurn hP s.offer rest).exists_engineTurn hP
    · exact exists_execAt_cmd hP (format_decodeCmd w) _
    · exact ⟨_, rfl⟩
    · exact ⟨_, rfl⟩
  obtain ⟨t, ht⟩ := hstep
  exact ⟨t, ht, stepAt_runInv hP h ht⟩

/-- A run of any length from a state with the invariant stops nowhere. -/
theorem RunInv.exists_runsTo {s : State} (h : RunInv s) (k : Nat) : ∃ t, RunsTo k s t := by
  induction k generalizing s with
  | zero => exact ⟨s, rfl⟩
  | succ k ih =>
    obtain ⟨s1, hstep, h1⟩ := h.exists_stepAt hw_ok
    obtain ⟨t, ht⟩ := ih h1
    have hcore : Sys2Proof.core.step s = .next s1 := (step_eq_stepAt s).trans hstep
    exact ⟨t, by simpa only [RunsTo, Host.Core.run, hcore] using ht⟩

/-- Settles O60: reset meets RunInv whatever the script, every step keeps it, and with it every step answers. -/
theorem noRunStops : Obligations.NoRunStops := by
  unfold Obligations.NoRunStops
  intro h k
  exact (RunInv.blockReset hw_ok { State.reset with script := h }).exists_runsTo k

end Sys2Proof.Machine
end

section
/-! PROOFS. The encoding (R80 to R93): one decoder on the words of each format's own width, and the encoder as its inverse
both ways. -/

namespace Sys2Proof

/-- The instruction of a word of a format's own width: the tables of R81, R83, R86 and R93 as one function. -/
def decodeWord : (f : Format) → BitVec f.width → Instr
  | .cmd, w => decodeCmd w
  | .bit, b => decodeBit (b == 1#1)
  | .symLine, c => decodeSymChar c
  | .bitsLine, c => decodeBitsChar c

/-! What decodes (R80). -/

/-- A number that fits the format decodes to the instruction of its word. -/
theorem decode_of_lt {f : Format} {w : Nat} (h : w < 2 ^ f.width) :
    decode f w = .ok (decodeWord f (BitVec.ofNat f.width w)) := by
  cases f with
  | cmd | symLine | bitsLine => exact if_pos h
  | bit =>
    obtain rfl | rfl : w = 0 ∨ w = 1 := by
      simp only [Format.width] at h
      omega
    · rfl
    · rfl

/-- A wider number is refused. -/
theorem exists_error_of_le {f : Format} {w : Nat} (h : 2 ^ f.width ≤ w) : ∃ e, decode f w = .error e := by
  cases f <;> exact ⟨_, if_neg (Nat.not_lt.mpr h)⟩

theorem decode_eq_ok {f : Format} {w : Nat} {i : Instr} :
    decode f w = .ok i ↔ w < 2 ^ f.width ∧ decodeWord f (BitVec.ofNat f.width w) = i := by
  rcases Nat.lt_or_ge w (2 ^ f.width) with h | h
  · simp [decode_of_lt h, h]
  · obtain ⟨e, he⟩ := exists_error_of_le h
    simp [he, Nat.not_lt.mpr h]

theorem decode_toNat (f : Format) (c : BitVec f.width) : decode f c.toNat = .ok (decodeWord f c) := by
  rw [decode_of_lt c.isLt, BitVec.ofNat_toNat, BitVec.setWidth_eq]

theorem decode_bool (b : Bool) : decode .bit b.toNat = .ok (decodeBit b) := by
  cases b <;> rfl

/-- Settles O2: a number decodes exactly when it fits the format. -/
theorem formatDecodesExactlyItsWords : Obligations.FormatDecodesExactlyItsWords := by
  unfold Obligations.FormatDecodesExactlyItsWords
  intro f w
  simp only [decode_eq_ok, exists_and_left, exists_eq', and_true]

/-! The codes a line kind names (R90, R92, R93). -/

/-- The codes of the digits and of LF (R88, R90). -/
def symLineCodes : List Byte :=
  [0x30#8, 0x31#8, 0x32#8, 0x33#8, 0x34#8, 0x35#8, 0x36#8, 0x37#8, 0x38#8, 0x39#8, 0x0A#8]

/-- The codes of `'0'`, `'1'` and LF (R88, R92). -/
def bitsLineCodes : List Byte := [0x30#8, 0x31#8, 0x0A#8]

theorem isSymLineCode_iff {c : Byte} : isSymLineCode c = true ↔ c ∈ symLineCodes := by
  simp only [isSymLineCode, isDigitCode, symLineCodes, Bool.or_eq_true, Bool.and_eq_true, decide_eq_true_eq, beq_iff_eq,
    List.mem_cons, List.not_mem_nil, or_false]
  bv_omega

theorem isBitsLineCode_iff {c : Byte} : isBitsLineCode c = true ↔ c ∈ bitsLineCodes := by
  simp [isBitsLineCode, bitsLineCodes, or_assoc]

/-- Any other character on a symbol line is of the class `OTHER` (R93). -/
theorem decodeSymChar_of_not_code {c : Byte} (h : isSymLineCode c = false) : decodeSymChar c = .symOther c := by
  have hne : c ∉ symLineCodes := by simp [← isSymLineCode_iff, h]
  simp only [symLineCodes, List.mem_cons, List.not_mem_nil, or_false, not_or] at hne
  simp only [decodeSymChar, hne, if_false]

/-- Any other character on a bit-string line is of the class `OTHER` (R93). -/
theorem decodeBitsChar_of_not_code {c : Byte} (h : isBitsLineCode c = false) : decodeBitsChar c = .bitsOther c := by
  have hne : c ∉ bitsLineCodes := by simp [← isBitsLineCode_iff, h]
  simp only [bitsLineCodes, List.mem_cons, List.not_mem_nil, or_false, not_or] at hne
  simp only [decodeBitsChar, hne, if_false]

/-! Encoding after decoding: the instruction of a word is well formed and has that word. -/

theorem decodeCmd_wf_encode (w : BitVec 3) : (decodeCmd w).wf = true ∧ encode (decodeCmd w) = w.toNat := by
  decide +revert

theorem decodeBit_wf_encode (b : BitVec 1) :
    (decodeBit (b == 1#1)).wf = true ∧ encode (decodeBit (b == 1#1)) = b.toNat := by
  decide +revert

theorem decodeSymChar_wf_encode (c : Byte) : (decodeSymChar c).wf = true ∧ encode (decodeSymChar c) = c.toNat := by
  cases h : isSymLineCode c with
  | true =>
    have hcodes : ∀ x ∈ symLineCodes, (decodeSymChar x).wf = true ∧ encode (decodeSymChar x) = x.toNat := by decide
    exact hcodes c (isSymLineCode_iff.mp h)
  | false => simp [decodeSymChar_of_not_code h, Instr.wf, encode, h]

theorem decodeBitsChar_wf_encode (c : Byte) : (decodeBitsChar c).wf = true ∧ encode (decodeBitsChar c) = c.toNat := by
  cases h : isBitsLineCode c with
  | true =>
    have hcodes : ∀ x ∈ bitsLineCodes, (decodeBitsChar x).wf = true ∧ encode (decodeBitsChar x) = x.toNat := by decide
    exact hcodes c (isBitsLineCode_iff.mp h)
  | false => simp [decodeBitsChar_of_not_code h, Instr.wf, encode, h]

theorem decodeWord_wf_encode (f : Format) (c : BitVec f.width) :
    (decodeWord f c).wf = true ∧ encode (decodeWord f c) = c.toNat := by
  cases f with
  | cmd => exact decodeCmd_wf_encode c
  | bit => exact decodeBit_wf_encode c
  | symLine => exact decodeSymChar_wf_encode c
  | bitsLine => exact decodeBitsChar_wf_encode c

theorem format_decodeWord (f : Format) (c : BitVec f.width) : (decodeWord f c).format = f := by
  cases f with
  | cmd => exact Machine.format_decodeCmd c
  | bit => exact Machine.format_decodeBit _
  | symLine => exact Machine.format_decodeSymChar c
  | bitsLine => exact Machine.format_decodeBitsChar c

/-! Decoding after encoding. -/

/-- The word of a well-formed instruction decodes to it in its format. -/
theorem decode_encode {i : Instr} (h : i.wf = true) : decode i.format (encode i) = .ok i := by
  cases i with
  | symOther c =>
    have hcode : isSymLineCode c = false := by simpa [Instr.wf] using h
    exact (decode_toNat .symLine c).trans (congrArg _ (decodeSymChar_of_not_code hcode))
  | bitsOther c =>
    have hcode : isBitsLineCode c = false := by simpa [Instr.wf] using h
    exact (decode_toNat .bitsLine c).trans (congrArg _ (decodeBitsChar_of_not_code hcode))
  | _ => rfl

/-- Settles O1: the instruction of a word is well formed with that word, and the word of a well-formed instruction
decodes to it. -/
theorem decodeInvertsEncode : Obligations.DecodeInvertsEncode := by
  unfold Obligations.DecodeInvertsEncode
  intro f w i
  constructor
  · intro h
    obtain ⟨hw, rfl⟩ := decode_eq_ok.mp h
    obtain ⟨hwf, hencode⟩ := decodeWord_wf_encode f (BitVec.ofNat f.width w)
    exact ⟨hwf, format_decodeWord f _, hencode.trans (Nat.mod_eq_of_lt hw)⟩
  · rintro ⟨hwf, rfl, rfl⟩
    exact decode_encode hwf

/-- Settles O3: the decoder evaluates to each row's instruction. -/
theorem specWordsDecode : Obligations.SpecWordsDecode := by
  unfold Obligations.SpecWordsDecode
  decide

end Sys2Proof
end

section
/-! PROOFS. The layouts: the codes of PHASE and CAUSE (R97, R201), the bits of STATUS (R96) and of the packed node record
(R99). -/

namespace Sys2Proof.Machine

variable {P : Params}

/-- Settles O9: the two tables as the model writes them. -/
theorem phaseAndCauseCodes : Obligations.PhaseAndCauseCodes := by
  unfold Obligations.PhaseAndCauseCodes
  exact ⟨rfl, rfl⟩

/-! The packed node record, for any parameters. -/

theorem packNode_R (r : NodeRec P) : (packNode r).extractLsb' 0 P.IDX_BITS = r.R :=
  BitVec.extractLsb'_append_eq_right

theorem packNode_L (r : NodeRec P) : (packNode r).extractLsb' P.IDX_BITS P.IDX_BITS = r.L := by
  rw [packNode, BitVec.extractLsb'_append_eq_of_le (Nat.le_refl _), Nat.sub_self, BitVec.extractLsb'_append_eq_right]

theorem packNode_SV (r : NodeRec P) : (packNode r).getLsbD (P.IDX_BITS + P.IDX_BITS) = r.SV := by
  rw [packNode, BitVec.getLsbD_append, if_neg (Nat.not_lt.mpr (Nat.le_add_left ..)), Nat.add_sub_cancel,
    BitVec.getLsbD_append, if_neg (Nat.lt_irrefl _), Nat.sub_self, BitVec.getLsbD_append, if_pos Nat.one_pos,
    BitVec.getLsbD_ofBool]
  rfl

theorem packNode_SYM (r : NodeRec P) :
    (packNode r).extractLsb' (1 + P.IDX_BITS + P.IDX_BITS) P.SYM_BITS = r.SYM := by
  rw [packNode, BitVec.extractLsb'_append_eq_of_le (Nat.le_add_left ..), Nat.add_sub_cancel,
    BitVec.extractLsb'_append_eq_of_le (Nat.le_add_left ..), Nat.add_sub_cancel,
    BitVec.extractLsb'_append_eq_of_le (Nat.le_refl _), Nat.sub_self, BitVec.extractLsb'_append_eq_right]

theorem packNode_W (r : NodeRec P) :
    (packNode r).extractLsb' (P.SYM_BITS + 1 + P.IDX_BITS + P.IDX_BITS) P.WEIGHT_BITS = r.W := by
  rw [packNode, BitVec.extractLsb'_append_eq_of_le (Nat.le_add_left ..), Nat.add_sub_cancel,
    BitVec.extractLsb'_append_eq_of_le (Nat.le_add_left ..), Nat.add_sub_cancel,
    BitVec.extractLsb'_append_eq_of_le (Nat.le_add_left ..), Nat.add_sub_cancel, BitVec.extractLsb'_append_eq_left]

/-- Settles O10: the fields' bits at this hardware's widths. -/
theorem packedRecordFields : Obligations.PackedRecordFields := by
  unfold Obligations.PackedRecordFields
  intro r
  exact ⟨packNode_W r, packNode_SYM r, packNode_SV r, packNode_L r, packNode_R r⟩

/-! STATUS. -/

/-- The fields of STATUS, whatever their values (R96). -/
theorem status_fields (s : State P) :
    (status s).extractLsb' 0 4 = s.CAUSE.code ∧ (status s).getLsbD 4 = s.TV ∧ (status s).getLsbD 5 = busy s ∧
      (status s).getLsbD 6 = false ∧ (status s).getLsbD 7 = false := by
  have hbits (k : Nat) : (status s).getLsbD k =
      (0#2 ++ BitVec.ofBool (busy s) ++ BitVec.ofBool s.TV ++ s.CAUSE.code).getLsbD k := rfl
  refine ⟨BitVec.extractLsb'_append_eq_right, ?_⟩
  simp only [hbits, BitVec.getLsbD_append]
  simp

/-- A STATUS read as a step: the value is recorded, and nothing of the block changes (R96). -/
theorem step_readStatus {s : State} {rest : List HostEvent} (h : s.script = .readStatus :: rest) :
    step s = .next { s with script := rest, statusReads := s.statusReads ++ [status s] } := by
  have hfetch : fetch s = (.internal .statusRead, { s with script := rest }) := by simp only [fetch, h]
  exact step_internal hfetch

/-- Settles O8: the value recorded is STATUS at the state of the read. -/
theorem statusReadFollowsLayout : Obligations.StatusReadFollowsLayout := by
  unfold Obligations.StatusReadFollowsLayout
  intro s rest h
  obtain ⟨hcause, htv, hbusy, h6, h7⟩ := status_fields s
  have hdef : busy s = decide (s.PHASE ≠ .idle ∧ s.PHASE ≠ .fault) := by cases hp : s.PHASE <;> simp [busy, hp]
  exact ⟨status s, step_readStatus h, hcause, htv, hbusy.trans hdef, h6, h7⟩

end Sys2Proof.Machine
end

section
/-! PROOFS. The turn and the commands (R85): which instruction a step runs, and, said once, what each of the eight command
words does. -/

namespace Sys2Proof.Machine

variable {P : Params}

/-! The turn. -/

/-- A CMD write is the instruction of its word, with the write off the script and its offer presented (R85). -/
theorem fetch_writeCmd {s : State P} {w : BitVec 3} {o : Offer P} {rest : List (HostEvent P)}
    (h : s.script = .writeCmd w o :: rest) :
    fetch s = (.instr (decodeCmd w), { s with script := rest, offer := o }) := by
  simp only [fetch, h]

/-- A CMD write as a step: exec of the instruction of its word (R85). -/
theorem step_writeCmd {s : State} {w : BitVec 3} {o : Offer} {rest : List HostEvent}
    (h : s.script = .writeCmd w o :: rest) :
    step s = exec (decodeCmd w) { s with script := rest, offer := o } :=
  step_instr (fetch_writeCmd h)

/-- When the engine has the turn its work is chosen by a state that differs in the script only (R241). -/
theorem fetch_engineTurn {s s1 : State P} (h : EngineTurn s s1) : fetch s = (engineWork s, s1) := by
  obtain ⟨hs, rfl⟩ | ⟨hs, rfl⟩ := h
  · simp only [fetch, hs]
  · obtain ⟨rest, hrest⟩ := List.head?_eq_some_iff.mp hs
    simp only [fetch, hrest, List.tail_cons, engineWork]

theorem step_engineTurn {s s1 : State} (h : EngineTurn s s1) {i : Instr} (hi : engineWork s = .instr i) :
    step s = exec i s1 :=
  step_instr (hi ▸ fetch_engineTurn h)

/-- Settles O4: in each turn the work is the decoded instruction, and a word of a format decodes to one instruction. -/
theorem stepRunsDecoded : Obligations.StepRunsDecoded := by
  unfold Obligations.StepRunsDecoded
  refine ⟨?_, ?_, ?_, ?_⟩
  · intro s w o rest i hs hi
    obtain rfl := Except.ok.inj ((decode_toNat .cmd w).symm.trans hi)
    exact step_writeCmd hs
  · intro s s1 c cs i hturn hp hin hi
    obtain rfl := Except.ok.inj ((decode_toNat .symLine c).symm.trans hi)
    exact step_engineTurn hturn (by simp only [engineWork, hp, hin]; rfl)
  · intro s s1 c cs i hturn hp hin hi
    obtain rfl := Except.ok.inj ((decode_toNat .bitsLine c).symm.trans hi)
    exact step_engineTurn hturn (by simp only [engineWork, hp, hin]; rfl)
  · intro s s1 b bs i hturn hp hin hi
    obtain rfl := Except.ok.inj ((decode_bool b).symm.trans hi)
    exact step_engineTurn hturn (by simp only [engineWork, hp, hin])

/-! The commands. -/

/-- What a command word does to a state in IDLE (R83, R85). -/
def commandStart (i : Instr) (s : State P) : State P :=
  match i with
  | .build => buildStart (bindFreq s)
  | .restore => restoreClear { dropTree (bindText s) with NODE := [(0, blankNode)], NEXT := 1 }
  | .serialize => if s.TV then serializeStart s else raise .noTree s
  | .decode => if s.TV then decodeStart (bindBits s) else raise .noTree s
  | _ => raise .badCmd s

/-- RESTORE.start always answers, with the placeholder root as node 0 (R131, R132). -/
theorem restoreStart_eq (hP : P.ok) (s : State P) :
    restoreStart s = .ok (restoreClear { dropTree s with NODE := [(0, blankNode)], NEXT := 1 }) := by
  obtain ⟨t, ht⟩ := exists_restoreStart hP s
  obtain ⟨⟨i, s1⟩, halloc, h⟩ := op_bind_eq_ok.mp ht
  obtain ⟨-, -, rfl⟩ := alloc_eq_ok.mp halloc
  obtain rfl := Except.ok.inj h
  simp [ht, cellPut]

/-- A command whose action answers is that action in IDLE, and nothing in every other phase (R85). -/
theorem accept_of_ok {k : State P → Op (State P)} {s t : State P} (hk : k s = .ok t) :
    accept k s = .next (if s.PHASE = .idle then t else s) := by
  unfold accept
  split
  · rw [hk, settle_ok]
  · rfl

/-- Acceptance (R85): a command word starts its command in IDLE and is ignored in every other phase. -/
theorem execAt_command (hP : P.ok) {i : Instr} (hi : i.format = .cmd) (s : State P) :
    execAt i s = .next (if s.PHASE = .idle then commandStart i s else s) := by
  cases i with
  | restore => exact accept_of_ok (k := fun s => restoreStart (bindText s)) (restoreStart_eq hP (bindText s))
  | build => exact accept_of_ok (k := fun s => .ok (buildStart (bindFreq s))) rfl
  | serialize => exact accept_of_ok (k := needTree serializeStart) rfl
  | decode => exact accept_of_ok (k := needTree fun s => decodeStart (bindBits s)) rfl
  | reserved0 | reserved5 | reserved6 | reserved7 => exact accept_of_ok (k := badCmd) rfl
  | _ => cases hi

theorem exec_command {i : Instr} (hi : i.format = .cmd) (s : State) :
    exec i s = .next (if s.PHASE = .idle then commandStart i s else s) :=
  (exec_eq_execAt i s).trans (execAt_command hw_ok hi s)

theorem exec_command_idle {i : Instr} (hi : i.format = .cmd) {s : State} (hp : s.PHASE = .idle) :
    exec i s = .next (commandStart i s) := by
  rw [exec_command hi, if_pos hp]

/-- Settles O18: acceptance outside IDLE. -/
theorem commandIgnoredOutsideIdle : Obligations.CommandIgnoredOutsideIdle := by
  unfold Obligations.CommandIgnoredOutsideIdle
  intro i s hi hp
  rw [exec_command hi, if_neg hp]

/-- The reserved words are commands, and start nothing but the fault BAD_CMD (R83). -/
theorem reserved_command {i : Instr} (hi : i ∈ reservedInstrs) (s : State P) :
    i.format = .cmd ∧ commandStart i s = raise .badCmd s := by
  simp only [reservedInstrs, List.mem_cons, List.not_mem_nil, or_false] at hi
  obtain rfl | rfl | rfl | rfl := hi <;> exact ⟨rfl, rfl⟩

/-- Settles O16: in IDLE a reserved word starts the fault, in every other phase it is ignored as any command. -/
theorem reservedWordsFault : Obligations.ReservedWordsFault := by
  unfold Obligations.ReservedWordsFault
  refine ⟨rfl, fun i hi s => ?_⟩
  obtain ⟨hcmd, hstart⟩ := reserved_command hi s
  exact ⟨fun hp => (exec_command_idle hcmd hp).trans (congrArg _ hstart), commandIgnoredOutsideIdle i s hcmd⟩

/-- SERIALIZE and DECODE are commands, and without a tree start nothing but the fault NO_TREE (R85, R207). -/
theorem needTree_command {i : Instr} (hi : i ∈ [Instr.serialize, Instr.decode]) {s : State P} (htv : s.TV = false) :
    i.format = .cmd ∧ commandStart i s = raise .noTree s := by
  simp only [List.mem_cons, List.not_mem_nil, or_false] at hi
  obtain rfl | rfl := hi <;> simp [Instr.format, commandStart, htv]

/-- Settles O17: with TV 0 both start with the fault alone. -/
theorem noTreeRefusesBindingNothing : Obligations.NoTreeRefusesBindingNothing := by
  unfold Obligations.NoTreeRefusesBindingNothing
  intro i hi s hp htv
  obtain ⟨hcmd, hstart⟩ := needTree_command hi htv
  exact (exec_command_idle hcmd hp).trans (congrArg _ hstart)

/-! SERIALIZE.start (R161). -/

/-- SP, LEN, PHASE and one stack entry are all SERIALIZE.start writes. -/
theorem serializeStart_frame (s : State P) :
    serializeStart s = { s with
      STACK := (serializeStart s).STACK, SP := (serializeStart s).SP, LEN := 0, PHASE := .sWalk } := by
  unfold serializeStart
  split <;> rfl

theorem serializeStart_SP (s : State P) : (serializeStart s).SP = if s.ROOT = NIL then 0 else 1 := by
  unfold serializeStart
  split <;> rfl

theorem serializeStart_STACK (s : State P) :
    (serializeStart s).STACK =
      if s.ROOT = NIL then s.STACK else cellPut s.STACK 0 { n := s.ROOT, d := 0, b := false } := by
  unfold serializeStart
  split <;> rfl

/-- The root is put on the stack (R161). -/
theorem stackAt_serializeStart_zero {s : State P} (h : s.ROOT ≠ NIL) :
    stackAt (serializeStart s) 0 = .ok { n := s.ROOT, d := 0, b := false } := by
  rw [stackAt_eq_ok, serializeStart_STACK, if_neg h, cellGet_cellPut_same]

/-- Every other entry of the stack is left as it was (R161). -/
theorem stackAt_serializeStart_of_ne {s : State P} {k : Nat} (h : s.ROOT = NIL ∨ k ≠ 0) :
    stackAt (serializeStart s) k = stackAt s k := by
  have hcell : cellGet (serializeStart s).STACK k = cellGet s.STACK k := by
    rw [serializeStart_STACK]
    split
    · rfl
    · exact cellGet_cellPut_ne s.STACK _ (h.resolve_left ‹_›)
  simp only [stackAt, hcell]

/-! Acceptance as a step. -/

theorem decodeCmd_mem_reserved {w : BitVec 3} (h : w ∉ [0b001#3, 0b010#3, 0b011#3, 0b100#3]) :
    decodeCmd w ∈ reservedInstrs := by
  decide +revert

/-- Settles O11: the step is exec of the decoded word, and each word's start is the state the statement writes out. -/
theorem commandAcceptance : Obligations.CommandAcceptance := by
  unfold Obligations.CommandAcceptance
  intro s w o rest hs s1
  have hidle (hp : s.PHASE = .idle) : step s = .next (commandStart (decodeCmd w) s1) :=
    (step_writeCmd hs).trans (exec_command_idle (format_decodeCmd w) hp)
  refine ⟨fun hp => ?_, fun hp hw => ?_, fun hp hw => ?_, fun hp hw htv => ?_, fun hp hw htv => ?_, fun hp hw htv => ?_,
    fun hp hw htv => ?_, fun hp hw => ?_⟩
  · exact (step_writeCmd hs).trans (commandIgnoredOutsideIdle _ s1 (format_decodeCmd w) hp)
  · subst hw
    exact hidle hp
  · subst hw
    exact hidle hp
  · obtain ⟨-, hstart⟩ := needTree_command (i := decodeCmd w) (by simp [hw, decodeCmd]) (s := s1) htv
    exact (hidle hp).trans (congrArg _ hstart)
  · subst hw
    have hstart : step s = .next (serializeStart s1) := (hidle hp).trans (congrArg _ (if_pos htv))
    exact ⟨_, hstart, serializeStart_frame s1, serializeStart_SP s1, stackAt_serializeStart_zero (s := s1),
      fun _ => stackAt_serializeStart_of_ne (s := s1)⟩
  · obtain ⟨-, hstart⟩ := needTree_command (i := decodeCmd w) (by simp [hw, decodeCmd]) (s := s1) htv
    exact (hidle hp).trans (congrArg _ hstart)
  · subst hw
    exact (hidle hp).trans (congrArg _ (if_pos htv))
  · obtain ⟨-, hstart⟩ := reserved_command (decodeCmd_mem_reserved hw) s1
    exact (hidle hp).trans (congrArg _ hstart)

/-- Settles O19: an ignored command changes nothing, and each start writes the fields of its rule only. -/
theorem commandFrame : Obligations.CommandFrame := by
  unfold Obligations.CommandFrame
  intro i s t hi h
  obtain rfl := Host.Outcome.next.inj ((exec_command hi s).symm.trans h)
  split
  · cases i with
    | build => simp [commandStart, buildStart]
    | restore => simp [commandStart, restoreClear]
    | serialize =>
      simp only [commandStart]
      split
      · rw [serializeStart_frame]
        simp
      · simp
    | decode =>
      simp only [commandStart]
      split <;> simp
    | reserved0 | reserved5 | reserved6 | reserved7 => simp [commandStart]
    | _ => cases hi
  · simp

end Sys2Proof.Machine
end

section
/-! PROOFS. BUILD's steps (R111 to R116): what its start, a scan, a merge and its finish do when their preconditions
hold, for any parameters of R8, and these as steps of this hardware. -/

namespace Sys2Proof.Machine

variable {P : Params}

/-! The queue and the store. -/

/-- Adding a new member adds just it (R56). -/
theorem queueAdd_perm {i : Idx P} {q : List (Idx P)} (h : i ∉ q) : (queueAdd i q).Perm (i :: q) := by
  induction q with
  | nil => exact .refl _
  | cons x q ih =>
    obtain ⟨hx, hq⟩ := List.ne_and_not_mem_of_not_mem_cons h
    simp only [queueAdd, if_neg hx]
    split
    · exact .refl _
    · exact ((ih hq).cons x).trans (.swap i x q)

/-- `PQ.insert` of a node not yet queued answers while the queue has room (R38, R56). -/
theorem pqInsert_of_not_mem {i : Idx P} {s : State P} (hi : i ∉ s.PQ) (hroom : s.PQ.length < P.PQ_CAP) :
    pqInsert i s = .ok { s with PQ := queueAdd i s.PQ } := by
  rw [pqInsert, if_neg (by simpa using hi), if_pos hroom]

/-- The index `alloc` hands out is not queued while every queued node is below NEXT (R38, R54). -/
theorem new_not_mem_queue (hP : P.ok) {s : State P} (hcap : s.NEXT.toNat < P.NODE_CAP) {q : List (Idx P)}
    (hq : ∀ i ∈ q, i.toNat < s.NEXT.toNat) : s.NEXT.setWidth P.IDX_BITS ∉ q := fun h => by
  have := hq _ h
  rw [next_idx_toNat hP hcap] at this
  exact Nat.lt_irrefl _ this

/-- The record made at NEXT is read at the index it was given (R54). -/
theorem nodeRead_alloc_new (hP : P.ok) (r : NodeRec P) {s : State P} (hcap : s.NEXT.toNat < P.NODE_CAP) :
    nodeRead (cellPut s.NODE s.NEXT.toNat r) (s.NEXT.setWidth P.IDX_BITS) = .ok r := by
  have hnew := next_idx_toNat hP hcap
  have hput := nodeRead_put_same (m := s.NODE) r (ne_nil_of_lt_cap hP (hnew.symm ▸ hcap))
  rwa [hnew] at hput

/-- Every other record is read as before (R54). -/
theorem nodeRead_alloc_ne (hP : P.ok) (r : NodeRec P) {s : State P} (hcap : s.NEXT.toNat < P.NODE_CAP) {j : Idx P}
    (hj : j ≠ s.NEXT.setWidth P.IDX_BITS) : nodeRead (cellPut s.NODE s.NEXT.toNat r) j = nodeRead s.NODE j := by
  have hput := nodeRead_put_ne (m := s.NODE) r hj
  rwa [next_idx_toNat hP hcap] at hput

/-- The state with a node made at NEXT and queued (R54, R56). -/
def addNode (r : NodeRec P) (s : State P) : State P :=
  { s with
    NODE := cellPut s.NODE s.NEXT.toNat r, NEXT := s.NEXT + 1, PQ := queueAdd (s.NEXT.setWidth P.IDX_BITS) s.PQ }

/-- A node is made and queued while the store and the queue have room (R38, R54). -/
theorem alloc_pqInsert (hP : P.ok) (r : NodeRec P) {s : State P} (hcap : s.NEXT.toNat < P.NODE_CAP)
    (hroom : s.PQ.length < P.PQ_CAP) (hqueued : ∀ i ∈ s.PQ, i.toNat < s.NEXT.toNat) :
    (alloc r s >>= fun p => pqInsert p.1 p.2) = .ok (addNode r s) :=
  op_bind_eq_ok.mpr ⟨_, alloc_of_lt r hcap, pqInsert_of_not_mem (new_not_mem_queue hP hcap hqueued) hroom⟩

/-! The scan. -/

theorem countPositive_iff {c : Count P} : countPositive c = true ↔ 0 < c.toInt := by
  simp [countPositive]

/-- A positive count is its bits read unsigned, below half their range (R60). -/
theorem toNat_of_countPositive (hP : P.ok) {c : Count P} (h : countPositive c = true) :
    (c.toNat : Int) = c.toInt ∧ c.toNat < 2 ^ (P.COUNT_BITS - 1) := by
  obtain ⟨-, -, hcount, -⟩ := hP
  have hpos := countPositive_iff.mp h
  have hlt : 2 * c.toNat < 2 ^ P.COUNT_BITS := by
    by_contra hge
    rw [BitVec.toInt_eq_toNat_cond, if_neg hge] at hpos
    have := c.isLt
    omega
  have hint : c.toInt = c.toNat := by rw [BitVec.toInt_eq_toNat_cond, if_pos hlt]
  have hpow : 2 ^ P.COUNT_BITS = 2 * 2 ^ (P.COUNT_BITS - 1) := by rw [← Nat.pow_succ']; congr 1; omega
  exact ⟨hint.symm, by omega⟩

/-- A count zero-extended keeps its value (R100). -/
theorem countWeight_toNat (hP : P.ok) (c : Count P) : (countWeight c).toNat = c.toNat := by
  obtain ⟨-, hsym, hcount, hweight, -⟩ := hP
  have hle : P.COUNT_BITS ≤ P.WEIGHT_BITS := by omega
  rw [countWeight, BitVec.toNat_setWidth, Nat.mod_eq_of_lt (c.isLt.trans_le (Nat.pow_le_pow_right (by decide) hle))]

/-- A scan of a count that is not positive moves on (R112). -/
theorem buildScan_skip {s : State P} {c : Count P} (hc : freqAt s s.I.toNat = .ok c) (hpos : countPositive c = false) :
    buildScan s = .ok (scanNext s) :=
  op_bind_eq_ok.mpr ⟨c, hc, op_bind_eq_ok.mpr ⟨s, by simp [scanCount, hpos], rfl⟩⟩

/-- A scan of a positive count adds the leaf and moves on (R112, R113). -/
theorem buildScan_leaf (hP : P.ok) {s : State P} {c : Count P} (hc : freqAt s s.I.toNat = .ok c)
    (hpos : countPositive c = true) (hcap : s.NEXT.toNat < P.NODE_CAP) (hroom : s.PQ.length < P.PQ_CAP)
    (hqueued : ∀ i ∈ s.PQ, i.toNat < s.NEXT.toNat) :
    buildScan s = .ok (scanNext (addNode (leafNode s.I c) s)) := by
  have hadd := alloc_pqInsert hP (leafNode s.I c) hcap hroom hqueued
  have hcount : scanCount c s = .ok (addNode (leafNode s.I c) s) := by rwa [scanCount, if_pos hpos]
  exact op_bind_eq_ok.mpr ⟨c, hc, op_bind_eq_ok.mpr ⟨_, hcount, rfl⟩⟩

/-- The scan is over with the last symbol (R112). -/
theorem scanNext_PHASE (hP : P.ok) {s : State P} (hI : s.I.toNat < P.N_SYM) :
    (scanNext s).PHASE = if s.I.toNat + 1 = P.N_SYM then .bMerge else s.PHASE := by
  have hsym := n_sym_le hP
  have hpow : 2 ^ (P.SYM_BITS + 1) = 2 * 2 ^ P.SYM_BITS := Nat.pow_succ'
  have hlast : s.I + 1 = BitVec.ofNat (P.SYM_BITS + 1) P.N_SYM ↔ s.I.toNat + 1 = P.N_SYM := by
    rw [← BitVec.toNat_inj, scan_add_one_toNat hP hI, BitVec.toNat_ofNat, Nat.mod_eq_of_lt (by omega)]
  simp only [scanNext, hlast]

/-- FREQ answers the count of a symbol of the table bound to it (R60). -/
theorem freqAt_of_bound {s : State P} {f : FreqTable P} {i : Nat} {c : Count P} (hf : s.FREQ = some f)
    (hc : f.toList[i]? = some c) : freqAt s i = .ok c := by
  simp only [freqAt, hf, hc]

/-! The merge. -/

/-- The two members of a queue with the least keys, in that order, and their records (R57, R114). -/
structure LeastTwo (m : Memory P) (q : List (Idx P)) (a b : Idx P) (ra rb : NodeRec P) : Prop where
  fst : a ∈ q
  snd : b ∈ q.erase a
  readFst : nodeRead m a = .ok ra
  readSnd : nodeRead m b = .ok rb
  fstLeast : ∀ j r, j ∈ q → j ≠ a → nodeRead m j = .ok r → ra.W < r.W ∨ (ra.W = r.W ∧ a < j)
  sndLeast : ∀ j r, j ∈ q.erase a → j ≠ b → nodeRead m j = .ok r → rb.W < r.W ∨ (rb.W = r.W ∧ b < j)

/-- A merge adds a node above the two members with the least keys, the first removed on the left (R114). -/
theorem exists_buildMerge_eq (hP : P.ok) {s : State P} (hq : 2 ≤ s.PQ.length) (hlen : s.PQ.length ≤ P.PQ_CAP)
    (hnodup : s.PQ.Nodup) (hqueued : ∀ i ∈ s.PQ, i.toNat < s.NEXT.toNat)
    (hread : ∀ i ∈ s.PQ, ∃ r, nodeRead s.NODE i = .ok r) (hcap : s.NEXT.toNat < P.NODE_CAP) :
    ∃ a b ra rb, LeastTwo s.NODE s.PQ a b ra rb ∧
      buildMerge s = .ok (addNode (mergedNode ra.W rb.W a b) { s with PQ := (s.PQ.erase a).erase b }) := by
  obtain ⟨a, ra, ha, hma, hra, hleast⟩ :=
    extractMinTakesLeastKey P s.NODE s.PQ (List.ne_nil_of_length_pos (by omega)) hnodup hread
  have hlen1 := List.length_erase_of_mem hma
  obtain ⟨b, rb, hb, hmb, hrb, hleast'⟩ :=
    extractMinTakesLeastKey P s.NODE (s.PQ.erase a) (List.ne_nil_of_length_pos (by omega)) (hnodup.erase a)
      fun i hi => hread i (List.mem_of_mem_erase hi)
  have hlen2 := List.length_erase_of_mem hmb
  have hroom : ((s.PQ.erase a).erase b).length < P.PQ_CAP := by omega
  have hadd := alloc_pqInsert (s := { s with PQ := (s.PQ.erase a).erase b }) hP (mergedNode ra.W rb.W a b) hcap hroom
    fun i hi => hqueued i (List.mem_of_mem_erase (List.mem_of_mem_erase hi))
  exact ⟨a, b, ra, rb, ⟨hma, hmb, hra, hrb, hleast, hleast'⟩, op_bind_eq_ok.mpr ⟨_, ha, op_bind_eq_ok.mpr ⟨_, hb,
    op_bind_eq_ok.mpr ⟨ra, hra, op_bind_eq_ok.mpr ⟨rb, hrb, hadd⟩⟩⟩⟩⟩

/-! As steps. -/

/-- The engine's turn is a step that runs the engine's choice (R101). -/
theorem step_engineTurn_internal {s s1 : State} (h : EngineTurn s s1) {k : Internal}
    (hk : engineWork s = .internal k) : step s = runInternal k s1 :=
  step_internal (hk ▸ fetch_engineTurn h)

/-- The engine's turn takes the host's part off the script and leaves the block (R241). -/
theorem engineTurn_eq {s s1 : State P} (h : EngineTurn s s1) : s1 = { s with script := s1.script } := by
  obtain ⟨-, rfl⟩ | ⟨-, rfl⟩ := h <;> rfl

theorem step_bScan {s s1 t : State} (hturn : EngineTurn s s1) (hp : s.PHASE = .bScan) (h : buildScan s1 = .ok t) :
    step s = .next t := by
  rw [step_engineTurn_internal hturn (k := .buildScan) (by simp only [engineWork, hp]), runInternal, h, settle_ok]

theorem step_bMerge {s s1 t : State} (hturn : EngineTurn s s1) (hp : s.PHASE = .bMerge) (hq : 2 ≤ s.PQ.length)
    (h : buildMerge s1 = .ok t) : step s = .next t := by
  rw [step_engineTurn_internal hturn (k := .buildMerge) (by simp only [engineWork, hp, if_pos hq]), runInternal, h,
    settle_ok]

theorem step_bFinish {s s1 : State} (hturn : EngineTurn s s1) (hp : s.PHASE = .bMerge) (hq : s.PQ.length ≤ 1) :
    step s = .next (buildFinish s1) := by
  rw [step_engineTurn_internal hturn (k := .buildFinish)
    (by simp only [engineWork, hp, if_neg (Nat.not_le_of_lt (Nat.lt_succ_of_le hq))]), runInternal]

/-- Settles O12: BUILD is accepted in IDLE, and its start is the state the statement writes out. -/
theorem buildStarts : Obligations.BuildStarts := by
  unfold Obligations.BuildStarts
  intro s hp
  exact exec_command_idle (i := .build) rfl hp

/-- Settles O23: the step is BUILD.finish, which takes the head of the queue, or NIL, as the root. -/
theorem buildFinishStep : Obligations.BuildFinishStep := by
  unfold Obligations.BuildFinishStep
  intro s s1 hturn hp
  have hframe := engineTurn_eq hturn
  refine ⟨fun hq => ?_, fun i hq => ?_⟩ <;>
    rw [step_bFinish hturn hp (by simp [hq]), hframe] <;> simp [buildFinish, hq]

/-- Settles O20: the step is BUILD.scan, which moves on at once or after the leaf is added. -/
theorem buildScanStep : Obligations.BuildScanStep := by
  unfold Obligations.BuildScanStep
  intro s s1 f c hturn hp hf hc hcap hroom hqueued
  obtain ⟨sc, rfl⟩ : ∃ sc, s1 = { s with script := sc } := ⟨_, engineTurn_eq hturn⟩
  have hI : s.I.toNat < hw.N_SYM := by simpa using (List.getElem?_eq_some_iff.mp hc).1
  have hcount : freqAt { s with script := sc } s.I.toNat = .ok c := freqAt_of_bound hf hc
  have hnextI := scan_add_one_toNat hw_ok hI
  have hphase := scanNext_PHASE hw_ok hI
  rw [hp] at hphase
  by_cases hpos : countPositive c = true
  · have hstep := step_bScan hturn hp (buildScan_leaf hw_ok hcount hpos hcap hroom hqueued)
    obtain ⟨hint, -⟩ := toNat_of_countPositive hw_ok hpos
    refine ⟨_, hstep, hnextI, hphase, rfl, fun hle => absurd (countPositive_iff.mp hpos) (by omega), fun _ => ?_⟩
    refine ⟨next_add_one_toNat hw_ok hcap, ⟨_, nodeRead_alloc_new hw_ok _ hcap, ?_, rfl, ?_, rfl, rfl⟩,
      fun j hj => nodeRead_alloc_ne hw_ok _ hcap hj, fun j => mem_queueAdd.trans or_comm,
      length_queueAdd (new_not_mem_queue hw_ok hcap hqueued)⟩
    · exact (BitVec.toNat_setWidth ..).trans (Nat.mod_eq_of_lt hI)
    · exact (congrArg Int.ofNat (countWeight_toNat hw_ok c)).trans hint
  · have hstep := step_bScan hturn hp (buildScan_skip hcount (by simpa using hpos))
    exact ⟨_, hstep, hnextI, hphase, rfl, fun _ => ⟨rfl, rfl, rfl⟩, fun hlt => absurd (countPositive_iff.mpr hlt) hpos⟩

/-- Settles O22: the step is BUILD.merge, and the two members it removes leave the queue before the new node joins. -/
theorem buildMergeStep : Obligations.BuildMergeStep := by
  unfold Obligations.BuildMergeStep
  intro s s1 hturn hp hq hlen hnodup hmem hcap
  obtain ⟨sc, rfl⟩ : ∃ sc, s1 = { s with script := sc } := ⟨_, engineTurn_eq hturn⟩
  have hqueued : ∀ i ∈ s.PQ, i.toNat < s.NEXT.toNat := fun i hi => (hmem i hi).1
  obtain ⟨a, b, ra, rb, hleast, hmerge⟩ :=
    exists_buildMerge_eq (s := { s with script := sc }) hw_ok hq hlen hnodup hqueued (fun i hi => (hmem i hi).2) hcap
  obtain ⟨ha, hb, hra, hrb, hfst, hsnd⟩ : LeastTwo s.NODE s.PQ a b ra rb := hleast
  obtain ⟨hba, hbq⟩ := hnodup.mem_erase_iff.mp hb
  have hleft (j) : j ∈ (s.PQ.erase a).erase b ↔ j ∈ s.PQ ∧ j ≠ a ∧ j ≠ b := by
    rw [(hnodup.erase a).mem_erase_iff, hnodup.mem_erase_iff]
    tauto
  have hnew : s.NEXT.setWidth hw.IDX_BITS ∉ (s.PQ.erase a).erase b :=
    new_not_mem_queue hw_ok hcap fun i hi => hqueued i ((hleft i).mp hi).1
  have hlength : (queueAdd (s.NEXT.setWidth hw.IDX_BITS) ((s.PQ.erase a).erase b)).length + 1 = s.PQ.length := by
    rw [length_queueAdd hnew, List.length_erase_of_mem hb, List.length_erase_of_mem ha]
    omega
  exact ⟨_, a, b, ra, rb, step_bMerge hturn hp hq hmerge, ha, hbq, hba.symm, hra, hrb, hfst,
    fun j r hj hja => hsnd j r (hnodup.mem_erase_iff.mpr ⟨hja, hj⟩), nodeRead_alloc_new hw_ok _ hcap,
    fun j hj => nodeRead_alloc_ne hw_ok _ hcap hj, next_add_one_toNat hw_ok hcap,
    fun j => mem_queueAdd.trans (or_comm.trans (or_congr_left (hleft j))), hlength, rfl⟩

end Sys2Proof.Machine
end

section
/-! PROOFS. ShapeInv (R33, R151, R187): that every move keeps RESTORE's registers, the shape of the records and the
decoder's cursor. -/

namespace Sys2Proof.Machine

variable {P : Params}

/-! RESTORE's registers. -/

/-- Assigning a symbol not yet assigned adds one to the number of assigned symbols (R143). -/
theorem count_setIfInBounds {n k : Nat} {v : Vector Bool n} (h : v.toList[k]? = some false) :
    (v.setIfInBounds k true).toList.count true = v.toList.count true + 1 := by
  obtain ⟨hk, hv⟩ := List.getElem?_eq_some_iff.mp h
  rw [Vector.toList_setIfInBounds, List.count_set hk, hv]
  simp

/-- Every move keeps RESTORE's registers (R39, R139). -/
theorem Move.restoreRegs (hP : P.ok) {s t : State P} (hm : Move s t) (h : RestoreRegs s) : RestoreRegs t := by
  have hsym := n_sym_le hP
  intro ht
  cases hm with
  | rest => exact h ht
  | restoreStart =>
    obtain ⟨hn, -⟩ := hP
    have hcount : (Vector.replicate P.N_SYM false).toList.count true = 0 := by simp [List.count_replicate]
    exact ⟨hcount.symm ▸ rfl, fun _ => by simpa [restoreClear] using Nat.lt_of_succ_le hn, nofun⟩
  | digit hp hin hacc =>
    obtain ⟨hcount, -⟩ := h (.inl hp)
    exact ⟨hcount, fun _ => hacc, fun hq => by cases hp.symm.trans hq⟩
  | symLf hp hin hd hfree =>
    obtain ⟨hcount, hacc, -⟩ := h (.inl hp)
    have hrsym : (s.SYMACC.setWidth P.SYM_BITS).toNat = s.SYMACC.toNat := by
      rw [BitVec.toNat_setWidth, Nat.mod_eq_of_lt ((hacc hp).trans_le hsym)]
    exact ⟨hcount, nofun, fun _ => (congrArg (s.ASSIGNED.toList[·]?) hrsym).trans hfree⟩
  | bitDown hp | bitGrow hp => exact h (.inr hp)
  | bitsLf hp =>
    obtain ⟨hcount, -, hfree⟩ := h (.inr hp)
    have hset := count_setIfInBounds (hfree hp)
    have hle : (s.ASSIGNED.setIfInBounds s.RSYM.toNat true).toList.count true ≤ P.N_SYM := by
      simpa using List.count_le_length (a := true) (l := (s.ASSIGNED.setIfInBounds s.RSYM.toNat true).toList)
    have hone : (s.NPAIRS + 1).toNat = s.NPAIRS.toNat + 1 := by
      obtain ⟨-, -, -, -, -, hidx, -⟩ := hP
      have hpow : 2 ^ P.IDX_BITS = 2 * 2 ^ P.SYM_BITS := by rw [hidx, Nat.pow_succ']
      have h1 : (1 : BitVec P.IDX_BITS).toNat = 1 := BitVec.toNat_one (by omega)
      rw [BitVec.toNat_add, h1, Nat.mod_eq_of_lt (by omega)]
    obtain ⟨hn, -⟩ := hP
    refine ⟨?_, fun _ => by simpa [recordDone] using Nat.lt_of_succ_le hn, nofun⟩
    exact hone.trans ((congrArg (· + 1) hcount).trans hset.symm)
  | scanSkip hp | scanLeaf hp => exact absurd (scanNext_inBuild hp) (not_inBuild_of_inRestore ht)
  | merge hp | walkLeaf hp | walkInner hp | bitSingle hp | bitLeaf hp | bitInner hp =>
    rcases ht with ht | ht <;> cases hp.symm.trans ht
  | _ => rcases ht with ht | ht <;> cases ht

/-! Finished records. -/

/-- The leaf of a symbol is finished (R112). -/
theorem finished_leafNode (i : BitVec (P.SYM_BITS + 1)) (c : Count P) : finished (leafNode i c) := by
  simp [finished, leafNode, isLeaf, oneChild]

/-- The node a merge makes is finished (R114). -/
theorem finished_mergedNode (wa wb : Weight P) {a b : Idx P} (ha : a ≠ NIL) (hb : b ≠ NIL) :
    finished (mergedNode wa wb a b) := by
  simp [finished, mergedNode, isLeaf, oneChild, ha, hb]

/-- A finished record added to finished records (R112, R114). -/
theorem finished_of_added {m : Memory P} {i : Nat} {r : NodeRec P} (h : ∀ c ∈ m, finished c.2) (hr : finished r) :
    ∀ c ∈ cellPut m i r, finished c.2 := fun c hc => by
  rcases mem_cellPut hc with rfl | hc
  · exact hr
  · exact h c hc

/-- A step that leaves the tree alone and starts no BUILD. -/
theorem recordsFinished_of_same_tree {s t : State P} (h : RecordsFinished s) (hsame : SameTree s t)
    (hbuild : InBuild t → InBuild s) : RecordsFinished t := by
  obtain ⟨hnode, -, hroot, htv⟩ := hsame
  intro ht
  rw [hnode]
  rw [htv, hroot] at ht
  exact h (ht.imp_left hbuild)

/-- No record need be finished under RESTORE (R142). -/
theorem recordsFinished_of_restore {t : State P} (hf : FlagInv t) (hr : InRestore t) : RecordsFinished t := by
  obtain ⟨-, hnoTree, -⟩ := hf
  rintro (hb | ⟨htv, -⟩)
  · exact absurd hb (not_inBuild_of_inRestore hr)
  · simp [hnoTree (.inr hr)] at htv

/-- Every move keeps the records finished under BUILD and in a tree (R33, R118, R151). -/
theorem Move.recordsFinished (hP : P.ok) {s t : State P} (hm : Move s t) (h : StoreFacts s) (hf : FlagInv t)
    (hfin : RecordsFinished s) (hgrow : RecordsGrowing s) : RecordsFinished t := by
  cases hm with
  | rest => exact recordsFinished_of_same_tree hfin ⟨rfl, rfl, rfl, rfl⟩ id
  | refuse | restoreFault | walkStartEmpty | walkStart | walkEnd | decodeStart | decodeFault | decodeEnd =>
    exact recordsFinished_of_same_tree hfin ⟨rfl, rfl, rfl, rfl⟩ (by simp [InBuild])
  | walkLeaf | walkInner | bitSingle | bitLeaf | bitInner =>
    exact recordsFinished_of_same_tree hfin ⟨rfl, rfl, rfl, rfl⟩ id
  | digit hp => exact recordsFinished_of_restore hf (.inl hp)
  | restoreStart | bitsLf => exact recordsFinished_of_restore hf (.inl rfl)
  | symLf => exact recordsFinished_of_restore hf (.inr rfl)
  | bitDown hp | bitGrow hp => exact recordsFinished_of_restore hf (.inr hp)
  | buildStart => exact fun _ => List.forall_mem_nil _
  | scanSkip hp => exact fun _ => hfin (.inl (.inl hp))
  | scanLeaf hp => exact fun _ => finished_of_added (hfin (.inl (.inl hp))) (finished_leafNode _ _)
  | @merge hp a b q1 q2 q ra rb ha hb =>
    obtain ⟨hma, rfl⟩ := extractMin_eq_ok ha
    obtain ⟨hmb, -⟩ := extractMin_eq_ok hb
    have hmerged := finished_mergedNode ra.W rb.W (h.queued_ne_nil hP hma)
      (h.queued_ne_nil hP (List.mem_of_mem_erase hmb))
    exact fun _ => finished_of_added (hfin (.inl (.inr hp))) hmerged
  | buildFinish hp => exact fun _ => hfin (.inl (.inr hp))
  | tableEmpty => simp [RecordsFinished, InBuild]
  | tableDone hp hn hcf hone =>
    obtain ⟨hlines, -⟩ := hgrow
    have hassigned := hlines ⟨hp, hcf⟩
    rw [if_neg hn] at hassigned
    exact fun _ c hc => ⟨hassigned c hc, h.pairs_of_anyOneChild hP hone c hc⟩

/-! Growing records. -/

/-- Outside RESTORE nothing is asked of the records of a table. -/
theorem recordsGrowing_of_not_restore {t : State P} (h : ¬ InRestore t) : RecordsGrowing t :=
  ⟨fun ⟨hp, _⟩ => absurd (.inl hp) h, fun ⟨hp, _⟩ => absurd (.inr hp) h⟩

/-- The record at a key that is read is the one read. -/
theorem StoreFacts.record_eq {s : State P} (h : StoreFacts s) {i : Idx P} {r : NodeRec P}
    (hr : nodeRead s.NODE i = .ok r) {c : Nat × NodeRec P} (hc : c ∈ s.NODE) (hi : c.1 = i.toNat) : c.2 = r := by
  have hcell := cellGet_of_mem h.store.keys_pairwise hc
  rw [hi, (nodeRead_eq_ok.mp hr).2] at hcell
  exact (Option.some.inj hcell).symm

/-- A record with a link is no leaf (R31). -/
theorem isLeaf_of_childOf {b : Bool} {r : NodeRec P} (h : childOf b r ≠ NIL) : isLeaf r = false := by
  cases b <;> simp_all [childOf, isLeaf]

/-- The records inside a bit-string line that has met no conflict, before the step that leaves the node reached: that
node is not assigned, every other is assigned exactly when it is a leaf (R140, R141). -/
theorem assigned_of_descent {s : State P} (h : StoreFacts s) (hp : s.PHASE = .rBits) (hgrow : RecordsGrowing s)
    {r : NodeRec P} (hr : nodeRead s.NODE s.CURB = .ok r) (hcf : cfOnDescent s.CF r = false) :
    r.SV = false ∧ ∀ c ∈ s.NODE, if c.1 = s.CURB.toNat then c.2 = r else c.2.SV = isLeaf c.2 := by
  obtain ⟨hclear, hsv⟩ : s.CF = false ∧ r.SV = false := by simpa [cfOnDescent] using hcf
  obtain ⟨-, hbits⟩ := hgrow
  refine ⟨hsv, fun c hc => ?_⟩
  have hother := hbits ⟨hp, hclear⟩ c hc
  split
  · exact h.record_eq hr hc ‹_›
  · rwa [if_neg ‹_›] at hother

/-- A cell of the store after a write is the one written, or an old one at another key. -/
theorem StoreExact.mem_write {m : Memory P} {n : BitVec (P.IDX_BITS + 1)} {i : Nat} {r : NodeRec P}
    (h : StoreExact (cellPut m i r) n) {c : Nat × NodeRec P} (hc : c ∈ cellPut m i r) :
    c = (i, r) ∨ (c.1 ≠ i ∧ c ∈ m) := by
  by_cases hi : c.1 = i
  · have hcell := cellGet_of_mem h.keys_pairwise hc
    rw [hi, cellGet_cellPut_same] at hcell
    exact .inl (Prod.ext hi (Option.some.inj hcell).symm)
  · exact .inr ⟨hi, (mem_cellPut hc).resolve_left fun e => hi (congrArg Prod.fst e)⟩

@[simp] theorem childOf_withChild (b : Bool) (r : NodeRec P) (c : Idx P) : childOf b (withChild b r c) = c := by
  cases b <;> rfl

@[simp] theorem withChild_SV (b : Bool) (r : NodeRec P) (c : Idx P) : (withChild b r c).SV = r.SV := by
  cases b <;> rfl

/-- Every move keeps the shape of the records of a table (R142, R149, R151). -/
theorem Move.recordsGrowing (hP : P.ok) {s t : State P} (hm : Move s t) (h : StoreFacts s) (ht : StoreFacts t)
    (hregs : RestoreRegs t) (hgrow : RecordsGrowing s) : RecordsGrowing t := by
  cases hm with
  | rest | digit => exact hgrow
  | restoreStart => simp [RecordsGrowing, restoreClear]
  | symLf hp =>
    refine ⟨nofun, fun ⟨_, hcf⟩ c hc => ?_⟩
    obtain ⟨hlines, -⟩ := hgrow
    have hlines := hlines ⟨hp, hcf⟩
    replace hc : c ∈ s.NODE := hc
    by_cases hn : s.NPAIRS = 0
    · obtain rfl : c = (0, blankNode) := by simpa [if_pos hn ▸ hlines] using hc
      simp [symAccept, blankNode]
    · rw [if_neg hn] at hlines
      rw [hlines c hc]
      split <;> simp
  | @bitDown hp ch cs hin hd r hr b hchild =>
    refine ⟨fun ⟨hq, _⟩ => (nomatch hp.symm.trans hq), fun ⟨_, hcf⟩ c hc => ?_⟩
    obtain ⟨hsv, hall⟩ := assigned_of_descent h hp hgrow hr hcf
    have hshape : c.2.SV = isLeaf c.2 := by
      have hc' := hall c hc
      split at hc'
      · rw [hc', hsv, isLeaf_of_childOf hchild]
      · exact hc'
    rw [hshape]
    split <;> simp
  | @bitGrow hp ch cs hin hd r r' hr b hnone hcap hr' =>
    refine ⟨fun ⟨hq, _⟩ => (nomatch hp.symm.trans hq), fun ⟨_, hcf⟩ c hc => ?_⟩
    obtain ⟨hsv, hall⟩ := assigned_of_descent h hp hgrow hr hcf
    have hnew := next_idx_toNat hP hcap
    have hlink : isLeaf (withChild b r (s.NEXT.setWidth P.IDX_BITS)) = false :=
      isLeaf_of_childOf (b := b) (by rw [childOf_withChild]; exact ne_nil_of_lt_cap hP (hnew ▸ hcap))
    obtain rfl : r = r' := by
      rw [nodeRead_alloc_ne hP _ hcap fun e => Nat.ne_of_lt (h.curb (.inr hp)) (by rw [e, hnew]), hr] at hr'
      exact Except.ok.inj hr'
    rcases ht.store.mem_write hc with rfl | ⟨hne, hc⟩
    · have hold : s.CURB.toNat ≠ s.NEXT.toNat := Nat.ne_of_lt (h.curb (.inr hp))
      simp [descend, hnew, hold, hsv, hlink]
    · rcases mem_cellPut hc with rfl | hc
      · simp [descend, hnew, blankNode]
      · have hshape := hall c hc
        rw [if_neg hne] at hshape
        rw [hshape]
        split <;> simp
  | @bitsLf hp ch cs hin r hr =>
    refine ⟨fun ⟨_, hcf⟩ => ?_, nofun⟩
    obtain ⟨⟨hclear, -⟩, hleaf⟩ : (s.CF = false ∧ r.SV = false) ∧ isLeaf r = true := by
      simpa [recordDone, cfOnAssign] using hcf
    obtain ⟨hcount, -⟩ := hregs (.inl rfl)
    have hpairs : s.NPAIRS + 1 ≠ 0 := fun hzero => by
      have hmem : true ∈ (s.ASSIGNED.setIfInBounds s.RSYM.toNat true).toList := by
        rw [Vector.toList_setIfInBounds]
        exact List.mem_set (by simpa using h.rsym) true
      have hnone := hcount.symm.trans ((congrArg BitVec.toNat hzero).trans BitVec.toNat_zero)
      exact List.count_eq_zero.mp hnone hmem
    obtain ⟨-, hbits⟩ := hgrow
    refine (if_neg hpairs).mpr fun c hc => ?_
    rcases ht.store.mem_write hc with rfl | ⟨hne, hc⟩
    · exact hleaf.symm
    · have hshape := hbits ⟨hp, hclear⟩ c hc
      rwa [if_neg hne] at hshape
  | scanSkip hp | scanLeaf hp =>
    exact recordsGrowing_of_not_restore fun hr => not_inBuild_of_inRestore hr (scanNext_inBuild hp)
  | merge hp | walkLeaf hp | walkInner hp | bitSingle hp | bitLeaf hp | bitInner hp =>
    exact recordsGrowing_of_not_restore (by rintro (hq | hq) <;> cases hp.symm.trans hq)
  | _ => exact recordsGrowing_of_not_restore (by rintro (hq | hq) <;> cases hq)

/-! The cursor. -/

/-- A cursor at the root is where it should be (R181, R184). -/
theorem cursorOk_of_eq_root {s : State P} (h : s.CUR = s.ROOT) : cursorOk s := by
  unfold cursorOk
  rw [h]
  exact ⟨id, fun root hroot => ⟨fun _ => rfl, fun hl => ⟨⟨root, hroot, hl⟩, Reachable_refl _ _⟩⟩⟩

/-- Every move keeps the decoder's cursor (R187). -/
theorem Move.cursor {s t : State P} (hm : Move s t) (h : s.PHASE = .dRun → cursorOk s) (ht : t.PHASE = .dRun) :
    cursorOk t := by
  cases hm with
  | rest => exact h ht
  | decodeStart => exact cursorOk_of_eq_root rfl
  | bitSingle hp => exact h hp
  | bitLeaf => exact cursorOk_of_eq_root rfl
  | @bitInner hp x bs hin root cur r hroot hinner hcur b hr hl =>
    obtain ⟨-, hread⟩ := h hp
    obtain ⟨-, hwalk⟩ := hread root hroot
    obtain ⟨-, hreach⟩ := hwalk hinner
    refine ⟨fun hnil => absurd hnil (nodeRead_ne_nil hroot), fun root' hroot' => ?_⟩
    obtain rfl := Except.ok.inj (hroot.symm.trans hroot')
    exact ⟨fun hleaf => by simp [hleaf] at hinner, fun _ => ⟨⟨r, hr, hl⟩, Reachable_child hreach hcur b⟩⟩
  | scanSkip hp | scanLeaf hp => rcases scanNext_inBuild hp with hb | hb <;> cases hb.symm.trans ht
  | merge hp | digit hp | bitDown hp | bitGrow hp | walkLeaf hp | walkInner hp => cases hp.symm.trans ht
  | _ => cases ht

/-! Together. -/

/-- Every step keeps ShapeInv, for any parameters of R8. -/
theorem stepAt_shapeInv (hP : P.ok) {s t : State P} (hs : ShapeInv s) (h : stepAt s = .next t) : ShapeInv t := by
  obtain ⟨hstore, hflag, hregs, hfin, hgrow, hcursor⟩ := hs
  have hflag' := stepAt_flagInv hflag h
  obtain ⟨rest, -, rfl⟩ | ⟨-, o, sc, hm⟩ := stepAt_cases h
  · obtain ⟨-, -, hreset, -⟩ := blockReset_invariants hP { s with script := rest }
    exact hreset
  · have hfacts : StoreFacts { s with offer := o, script := sc } := { storeInv_iff.mp hstore with }
    have hregs' := hm.restoreRegs hP hregs
    exact ⟨stepAt_storeInv hP hstore h, hflag', hregs', hm.recordsFinished hP hfacts hflag' hfin hgrow,
      hm.recordsGrowing hP hfacts (hm.storeFacts hP hfacts) hregs' hgrow, hm.cursor hcursor⟩

/-- Settles O55: reset meets ShapeInv, and every other step is a move, which keeps its parts. -/
theorem stepKeepsShapeInv : Obligations.StepKeepsShapeInv := by
  unfold Obligations.StepKeepsShapeInv
  intro s t hs h
  exact stepAt_shapeInv hw_ok hs (step_eq_stepAt s ▸ h)

end Sys2Proof.Machine
end

section
/-! PROOFS. The merge of a forest (R121): the least members of a forest with distinct sequence numbers, and the run of
merges that `mergeForest` makes, as a relation to do induction on. -/

namespace Sys2Proof.Machine

variable {P : Params}

/-! The order of a forest. -/

/-- The order of R121 on numbers. -/
theorem grownLt_iff {x y : Grown P} : grownLt x y = true ↔ x.w < y.w ∨ (x.w = y.w ∧ x.q < y.q) := by
  simp [grownLt]

/-- A member that is no greater than the lesser of two is no greater than either (R121). -/
theorem not_grownLt_of_not_grownLt_min {x y z : Grown P} (h : ¬ grownLt (if grownLt y x then y else x) z = true) :
    ¬ grownLt x z = true ∧ ¬ grownLt y z = true := by
  split at h <;> simp only [grownLt_iff] at * <;> omega

/-- The least of members is one of them, and none of them is below it (R121). -/
theorem leastGrown_spec (x : Grown P) (F : List (Grown P)) :
    leastGrown x F ∈ x :: F ∧ ∀ y ∈ x :: F, ¬ grownLt y (leastGrown x F) = true := by
  induction F generalizing x with
  | nil => simp [leastGrown, grownLt_iff]
  | cons y F ih =>
    obtain ⟨hmem, hleast⟩ := ih (if grownLt y x then y else x)
    obtain ⟨hfirst, hrest⟩ := List.forall_mem_cons.mp hleast
    rw [leastGrown]
    refine ⟨?_, ?_⟩
    · rcases List.mem_cons.mp hmem with hm | hm
      · rw [hm]
        split <;> simp
      · exact List.mem_cons_of_mem _ (List.mem_cons_of_mem _ hm)
    · obtain ⟨hx, hy⟩ := not_grownLt_of_not_grownLt_min hfirst
      exact List.forall_mem_cons.mpr ⟨hx, List.forall_mem_cons.mpr ⟨hy, hrest⟩⟩

/-- The members of a forest have distinct sequence numbers, all below the next (R121). -/
structure Numbered (F : List (Grown P)) (q : Nat) : Prop where
  distinct : (F.map Any.Grown.q).Nodup
  below : ∀ g ∈ F, g.q < q

theorem Numbered.perm {F G : List (Grown P)} {q : Nat} (h : Numbered F q) (hp : F.Perm G) : Numbered G q :=
  ⟨(hp.map _).nodup_iff.mp h.distinct, fun g hg => h.below g (hp.mem_iff.mpr hg)⟩

/-- A member with the next sequence number added. -/
theorem Numbered.cons {F : List (Grown P)} {q : Nat} (h : Numbered F q) {g : Grown P} (hg : g.q = q) :
    Numbered (g :: F) (q + 1) := by
  refine ⟨List.nodup_cons.mpr ⟨fun hq => ?_, h.distinct⟩, List.forall_mem_cons.mpr ⟨by omega, fun z hz => ?_⟩⟩
  · obtain ⟨z, hz, hzq⟩ := List.mem_map.mp hq
    have := h.below z hz
    omega
  · exact Nat.lt_succ_of_lt (h.below z hz)

theorem Numbered.tail {F : List (Grown P)} {q : Nat} {g : Grown P} (h : Numbered (g :: F) q) : Numbered F q :=
  ⟨(List.nodup_cons.mp h.distinct).2, (List.forall_mem_cons.mp h.below).2⟩

/-- A member and the forest without it make the forest (R121). -/
theorem perm_cons_without {F : List (Grown P)} {x : Grown P} (h : (F.map Any.Grown.q).Nodup) (hx : x ∈ F) :
    F.Perm (x :: without x F) := by
  have hwithout : without x F = F.erase x := by
    rw [(h.of_map _).erase_eq_filter, without]
    refine List.filter_congr fun y hy => ?_
    have hinj : y.q = x.q → y = x := List.inj_on_of_nodup_map h hy hx
    rw [Bool.eq_iff_iff, bne_iff_ne, bne_iff_ne]
    exact ⟨fun hne e => hne (congrArg _ e), fun hne e => hne (hinj e)⟩
  rw [hwithout]
  exact List.perm_cons_erase hx

/-- The least member of a forest with distinct sequence numbers, and the others, which are greater (R121). -/
theorem exists_leastGrown {x : Grown P} {F : List (Grown P)} (h : ((x :: F).map Any.Grown.q).Nodup) :
    (x :: F).Perm (leastGrown x F :: without (leastGrown x F) (x :: F)) ∧
      ∀ z ∈ without (leastGrown x F) (x :: F), grownLt (leastGrown x F) z = true := by
  obtain ⟨hmem, hleast⟩ := leastGrown_spec x F
  refine ⟨perm_cons_without h hmem, fun z hz => ?_⟩
  obtain ⟨hz, hne⟩ := List.mem_filter.mp hz
  have hnot := hleast z hz
  have hne : z.q ≠ (leastGrown x F).q := by simpa using hne
  simp only [grownLt_iff] at hnot ⊢
  omega

/-! The run of merges. -/

/-- The member a merge makes: the first removed is the left child (R121). -/
def joined (x y : Grown P) (q : Nat) : Grown P := { w := x.w + y.w, q := q, t := .node x.t y.t }

/-- `mergeForest` as a relation (R121): each merge joins the two least members, the others stay, in any order. -/
inductive Merges : List (Grown P) → Nat → AnyTree P → Prop
  | none (q : Nat) : Merges [] q none
  | one (x : Grown P) (q : Nat) : Merges [x] q (some x.t)
  | join {F rest : List (Grown P)} {x y : Grown P} {q : Nat} {a : AnyTree P} (hF : F.Perm (x :: y :: rest))
      (hx : ∀ z ∈ y :: rest, grownLt x z = true) (hy : ∀ z ∈ rest, grownLt y z = true)
      (h : Merges (joined x y q :: rest) (q + 1) a) : Merges F q a

/-- With a merge for every member but one, `mergeForest` runs to its end (R121). -/
theorem merges_mergeForest {F : List (Grown P)} {q : Nat} (h : Numbered F q) {fuel : Nat}
    (hfuel : F.length ≤ fuel + 1) : Merges F q (mergeForest fuel F q) := by
  induction fuel generalizing F q with
  | zero =>
    match F, hfuel with
    | [], _ => exact .none q
    | [x], _ => exact .one x q
  | succ fuel ih =>
    match F, h, hfuel with
    | [], _, _ => exact .none q
    | [x], _, _ => exact .one x q
    | x0 :: y0 :: F, h, hfuel =>
      obtain ⟨hperm, hx⟩ := exists_leastGrown h.distinct
      cases hG : without (leastGrown x0 (y0 :: F)) (x0 :: y0 :: F) with
      | nil =>
        rw [hG] at hperm
        cases hperm.length_eq
      | cons z G =>
        rw [hG] at hperm hx
        have hfst := h.perm hperm
        obtain ⟨hperm', hy⟩ := exists_leastGrown hfst.tail.distinct
        have hall := hperm.trans (hperm'.cons _)
        have hrest := (hfst.tail.perm hperm').tail
        have hlen := hall.length_eq
        simp only [List.length_cons] at hlen hfuel
        simp only [mergeForest, hG]
        refine .join hall (fun w hw => hx w (hperm'.mem_iff.mpr hw)) hy (ih (hrest.cons rfl) ?_)
        rw [List.length_cons]
        omega

/-! The forest of positive counts. -/

/-- The symbols below a bound with a positive count, ascending (R112). -/
def positivesUpTo (f : FreqTable P) (n : Nat) : List Nat :=
  (List.range n).filter (fun i => countPositive (f.toList.getD i 0))

/-- The count of a symbol as a number (R60). -/
def symbolCount (f : FreqTable P) (i : Nat) : Nat := (f.toList.getD i 0).toNat

/-- The member of a symbol, with a sequence number (R121). -/
def leafGrown (f : FreqTable P) (i q : Nat) : Grown P :=
  { w := symbolCount f i, q := q, t := .leaf (BitVec.ofNat P.SYM_BITS i) }

/-- The forest of the symbols below a bound (R121). -/
def forestUpTo (f : FreqTable P) (n : Nat) : List (Grown P) :=
  (positivesUpTo f n).zipIdx.map (fun p => leafGrown f p.1 p.2)

theorem positivesUpTo_N_SYM (f : FreqTable P) : positivesUpTo f P.N_SYM = positives f := rfl

theorem forestUpTo_N_SYM (f : FreqTable P) : forestUpTo f P.N_SYM = forest0 f := rfl

theorem length_positivesUpTo_le (f : FreqTable P) (n : Nat) : (positivesUpTo f n).length ≤ n :=
  (List.length_filter_le _ _).trans (by simp)

theorem length_forestUpTo (f : FreqTable P) (n : Nat) : (forestUpTo f n).length = (positivesUpTo f n).length := by
  simp [forestUpTo]

/-- A symbol whose count is not positive adds no member (R112). -/
theorem positivesUpTo_succ_of_not {f : FreqTable P} {n : Nat} (h : countPositive (f.toList.getD n 0) = false) :
    positivesUpTo f (n + 1) = positivesUpTo f n := by
  rw [positivesUpTo, List.range_succ, List.filter_append, List.filter_singleton, h]
  exact List.append_nil _

/-- A symbol with a positive count is the last of those up to it (R112). -/
theorem positivesUpTo_succ_of_pos {f : FreqTable P} {n : Nat} (h : countPositive (f.toList.getD n 0) = true) :
    positivesUpTo f (n + 1) = positivesUpTo f n ++ [n] := by
  rw [positivesUpTo, List.range_succ, List.filter_append, List.filter_singleton, h]
  rfl

/-- A symbol with a positive count adds its member (R112, R121). -/
theorem forestUpTo_succ_of_pos {f : FreqTable P} {n : Nat} (h : countPositive (f.toList.getD n 0) = true) :
    forestUpTo f (n + 1) = forestUpTo f n ++ [leafGrown f n (positivesUpTo f n).length] := by
  simp [forestUpTo, positivesUpTo_succ_of_pos h, List.zipIdx_append]

theorem mem_positives {f : FreqTable P} {i : Nat} (h : i ∈ positives f) :
    i < P.N_SYM ∧ countPositive (f.toList.getD i 0) = true := by
  simpa [positives] using h

/-- The sequence numbers of the forest count from 0 (R121). -/
theorem forest0_numbered (f : FreqTable P) : Numbered (forest0 f) (positives f).length := by
  have hnumbers : (forest0 f).map Any.Grown.q = List.range' 0 (positives f).length := by
    rw [forest0, List.map_map, ← List.zipIdx_map_snd 0 (positives f)]
    rfl
  refine ⟨hnumbers ▸ List.nodup_range', fun g hg => ?_⟩
  have hq : g.q ∈ (forest0 f).map Any.Grown.q := List.mem_map_of_mem hg
  rw [hnumbers, List.mem_range'_1] at hq
  omega

/-- `buildTree` is a run of merges from the forest of positive counts (R121). -/
theorem merges_buildTree (f : FreqTable P) : Merges (forest0 f) (positives f).length (buildTree f) := by
  refine merges_mergeForest (forest0_numbered f) ?_
  rw [← forestUpTo_N_SYM, length_forestUpTo]
  exact Nat.le_succ_of_le (length_positivesUpTo_le f P.N_SYM)

/-- What holds of the members of the forest, by their symbols and whatever their numbers. -/
theorem map_forest0 {α : Type} (f : FreqTable P) (φ : Grown P → α) (ψ : Nat → α)
    (h : ∀ i ∈ positives f, ∀ q, φ (leafGrown f i q) = ψ i) : (forest0 f).map φ = (positives f).map ψ := by
  have hfst : (positives f).map ψ = (positives f).zipIdx.map (fun p => ψ p.1) := by
    rw [← Function.comp_def ψ Prod.fst, ← List.map_map, List.zipIdx_map_fst]
  rw [forest0, List.map_map, hfst]
  refine List.map_congr_left fun p hp => h p.1 ?_ p.2
  exact List.fst_mem_of_mem_zipIdx hp

/-- The weights of the forest are the positive counts (R112). -/
theorem map_w_forest0 (f : FreqTable P) : (forest0 f).map Any.Grown.w = (positives f).map (symbolCount f) :=
  map_forest0 f _ _ fun _ _ _ => rfl

/-- The symbol of a leaf of the forest is the symbol scanned (R112). -/
theorem sym_toNat (hP : P.ok) {i : Nat} (hi : i < P.N_SYM) : (BitVec.ofNat P.SYM_BITS i).toNat = i := by
  rw [BitVec.toNat_ofNat, Nat.mod_eq_of_lt (hi.trans_le (n_sym_le hP))]

end Sys2Proof.Machine
end

section
/-! PROOFS. The codes of BUILD's tree (R118): the symbols at its leaves, and that no codes are prefixes of others. -/

namespace Sys2Proof.Machine

variable {P : Params}

/-- The traversal visits the leaves from left to right (R166). -/
theorem map_fst_walkTree (t : CodeTree P) (p : List Bool) : (walkTree t p).map Prod.fst = leavesOf t := by
  induction t generalizing p with
  | leaf x => rfl
  | node a b iha ihb => rw [walkTree, List.map_append, iha, ihb, leavesOf]

/-- The codes below a node start with its path (R166). -/
theorem exists_append_of_mem_walkTree {t : CodeTree P} {p : List Bool} {q : Sym P × List Bool}
    (h : q ∈ walkTree t p) : ∃ r, q.2 = p ++ r := by
  induction t generalizing p with
  | leaf x =>
    obtain rfl := List.mem_singleton.mp h
    exact ⟨[], (List.append_nil p).symm⟩
  | node a b iha ihb =>
    rcases List.mem_append.mp h with h | h
    · obtain ⟨r, hr⟩ := iha h
      exact ⟨false :: r, by simp [hr]⟩
    · obtain ⟨r, hr⟩ := ihb h
      exact ⟨true :: r, by simp [hr]⟩

/-- No codes of a tree are prefixes of others: two leaves part at a node, one to its left and one to its right (R14). -/
theorem walkTree_prefixFree (t : CodeTree P) (p : List Bool) :
    (walkTree t p).Pairwise (fun x y => ¬ x.2 <+: y.2 ∧ ¬ y.2 <+: x.2) := by
  induction t generalizing p with
  | leaf x => exact List.pairwise_singleton _ _
  | node a b iha ihb =>
    refine List.pairwise_append.mpr ⟨iha _, ihb _, fun x hx y hy => ?_⟩
    obtain ⟨r, hr⟩ := exists_append_of_mem_walkTree hx
    obtain ⟨r', hr'⟩ := exists_append_of_mem_walkTree hy
    simp [hr, hr', List.append_assoc, List.prefix_append_right_inj]

/-- The merges keep the leaves (R114, R121). -/
theorem Merges.leaves {F : List (Grown P)} {q : Nat} {a : AnyTree P} (h : Merges F q a) :
    ((serTree a).map Prod.fst).Perm (F.flatMap fun g => leavesOf g.t) := by
  induction h with
  | none => exact .refl _
  | one x => simp [serTree, map_fst_walkTree]
  | join hF _ _ _ ih =>
    refine ih.trans (.trans ?_ (hF.flatMap_right _).symm)
    simp [joined, leavesOf]

/-- Settles O25: the merges start from the leaves of the positive counts and keep them, and in any tree no codes are
prefixes of others. -/
theorem buildCodesArePrefixFree : Obligations.BuildCodesArePrefixFree := by
  unfold Obligations.BuildCodesArePrefixFree
  intro P f hP
  constructor
  · have hleaves := (merges_buildTree f).leaves.map BitVec.toNat
    have hsyms : ((forest0 f).flatMap fun g => leavesOf g.t).map BitVec.toNat = positives f := by
      have hlists := map_forest0 f (fun g => (leavesOf g.t).map BitVec.toNat) (fun i => [i]) fun i hi _ => by
        obtain ⟨hlt, -⟩ := mem_positives hi
        simp [leafGrown, leavesOf, sym_toNat hP hlt]
      rw [List.map_flatMap, List.flatMap_def, hlists, ← List.flatMap_def, List.flatMap_singleton']
    rwa [hsyms, List.map_map] at hleaves
  · unfold isPrefixCode
    rw [List.pairwise_map]
    cases buildTree f with
    | none => exact .nil
    | some t => exact walkTree_prefixFree t []

end Sys2Proof.Machine
end

section
/-! PROOFS. Optimality of BUILD's tree (R122). Two facts make it: a `PrefixFree` code for a list of counts gives one for
the list with its two least counts replaced by their sum, cheaper by that sum; and a merge adds exactly that sum to the
cost of the trees of a forest. -/

namespace Sys2Proof.Machine

variable {P : Params}

/-! Prefix codes. -/

/-- No words of a list are prefixes of others (R14). -/
def PrefixFree (W : List (List Bool)) : Prop := W.Pairwise (fun u v => ¬ u <+: v ∧ ¬ v <+: u)

theorem isPrefixCode_iff {C : List (Nat × List Bool)} : isPrefixCode C ↔ PrefixFree (C.map Prod.snd) := by
  rw [isPrefixCode, PrefixFree, List.pairwise_map]

theorem PrefixFree.perm {V W : List (List Bool)} (h : PrefixFree V) (hp : V.Perm W) : PrefixFree W :=
  (hp.pairwise_iff fun h => h.symm).mp h

/-- A longest word of a `PrefixFree` list may lose its last bit where no other differs from it in that bit alone. -/
theorem PrefixFree.shorten {p : List Bool} {x : Bool} {W : List (List Bool)} (h : PrefixFree ((p ++ [x]) :: W))
    (hlong : ∀ v ∈ W, v.length ≤ (p ++ [x]).length) (hsibling : p ++ [!x] ∉ W) : PrefixFree (p :: W) := by
  obtain ⟨hfree, hW⟩ := List.pairwise_cons.mp h
  refine List.pairwise_cons.mpr ⟨fun v hv => ?_, hW⟩
  obtain ⟨hpre, hext⟩ := hfree v hv
  refine ⟨?_, fun hvp => hext (hvp.trans (List.prefix_append p [x]))⟩
  rintro ⟨r, rfl⟩
  have hlen := hlong _ hv
  match r with
  | [] => exact hext (by simp)
  | [y] =>
    by_cases hy : y = x
    · exact hpre (by rw [hy])
    · obtain rfl : y = !x := Bool.eq_not.mpr hy
      exact hsibling hv
  | _ :: _ :: _ => simp at hlen

/-- The total weighted length of a code whose words carry their counts (R122). -/
def wordCost (C : List (Nat × List Bool)) : Nat := (C.map fun c => c.1 * c.2.length).sum

theorem wordCost_cons (c : Nat × List Bool) (C : List (Nat × List Bool)) :
    wordCost (c :: C) = c.1 * c.2.length + wordCost C := by
  simp [wordCost]

theorem wordCost_perm {C D : List (Nat × List Bool)} (h : C.Perm D) : wordCost C = wordCost D :=
  (h.map _).sum_eq

/-- A code that is not empty has a longest word. -/
theorem exists_longest {C : List (Nat × List Bool)} (h : C ≠ []) : ∃ c ∈ C, ∀ d ∈ C, d.2.length ≤ c.2.length := by
  obtain ⟨c, hc, hmax⟩ := C.toFinset.exists_max_image (fun d => d.2.length) (by simpa using h)
  exact ⟨c, by simpa using hc, fun d hd => hmax d (by simpa using hd)⟩

/-- The least count may take a longest word: the code is no dearer, and its words are the same. -/
theorem exists_exchange {a : Nat} {ws : List Nat} {C : List (Nat × List Bool)} (hw : (C.map Prod.fst).Perm (a :: ws))
    (ha : ∀ w ∈ ws, a ≤ w) {c : Nat × List Bool} (hc : c ∈ C) (hlong : ∀ d ∈ C, d.2.length ≤ c.2.length) :
    ∃ D, (D.map Prod.fst).Perm ws ∧ (C.map Prod.snd).Perm (c.2 :: D.map Prod.snd) ∧
      a * c.2.length + wordCost D ≤ wordCost C := by
  obtain ⟨d, hd, rfl⟩ : ∃ d ∈ C, d.1 = a := List.mem_map.mp (hw.mem_iff.mpr List.mem_cons_self)
  have hC := List.perm_cons_erase hc
  by_cases hdc : d = c
  · subst hdc
    refine ⟨C.erase d, ((hC.map Prod.fst).symm.trans hw).cons_inv, hC.map Prod.snd, ?_⟩
    rw [wordCost_perm hC, wordCost_cons]
  · have hE := hC.trans ((List.perm_cons_erase ((List.mem_erase_of_ne hdc).mpr hd)).cons c)
    generalize (C.erase c).erase d = E at hE
    have hws : (c.1 :: E.map Prod.fst).Perm ws :=
      ((List.Perm.swap _ _ _).trans ((hE.map Prod.fst).symm.trans hw)).cons_inv
    refine ⟨(c.1, d.2) :: E, hws, hE.map Prod.snd, ?_⟩
    have hle := mul_add_mul_le_mul_add_mul (ha c.1 (hws.mem_iff.mp List.mem_cons_self)) (hlong d hd)
    rw [wordCost_perm hE, wordCost_cons, wordCost_cons, wordCost_cons]
    simp only
    omega

/-- A word of a `PrefixFree` list with a further word is not empty. -/
theorem PrefixFree.ne_nil {u v : List Bool} {W : List (List Bool)} (h : PrefixFree (u :: v :: W)) : u ≠ [] := by
  rintro rfl
  obtain ⟨hfree, -⟩ := List.pairwise_cons.mp h
  exact (hfree v List.mem_cons_self).1 (List.nil_prefix)

/-- Every word of a `PrefixFree` code with two words or more has a last bit. -/
theorem exists_last_bit {C : List (Nat × List Bool)} (hC : isPrefixCode C) (h2 : 2 ≤ C.length) {c : Nat × List Bool}
    (hc : c ∈ C) : ∃ p x, c.2 = p ++ [x] := by
  have hsplit := List.perm_cons_erase hc
  have hfree := (isPrefixCode_iff.mp hC).perm (hsplit.map Prod.snd)
  have hlen := hsplit.length_eq
  cases hE : C.erase c with
  | nil =>
    rw [hE, List.length_singleton] at hlen
    omega
  | cons d E =>
    rw [hE] at hfree
    exact (List.eq_nil_or_concat' c.2).resolve_left hfree.ne_nil

/-- Where two longest words differ in their last bit alone, the two least counts take them and are joined to the word
above them. -/
theorem exists_joined_of_sibling {a b : Nat} {ws : List Nat} (ha : ∀ w ∈ b :: ws, a ≤ w) (hb : ∀ w ∈ ws, b ≤ w)
    {C : List (Nat × List Bool)} (hC : isPrefixCode C) (hw : (C.map Prod.fst).Perm (a :: b :: ws))
    {c : Nat × List Bool} (hc : c ∈ C) (hlong : ∀ d ∈ C, d.2.length ≤ c.2.length) {p : List Bool} {x : Bool}
    (hp : c.2 = p ++ [x]) (hsibling : p ++ [!x] ∈ (C.erase c).map Prod.snd) :
    ∃ D, isPrefixCode D ∧ (D.map Prod.fst).Perm ((a + b) :: ws) ∧ wordCost D + (a + b) ≤ wordCost C := by
  obtain ⟨D, hDw, hDs, hDc⟩ := exists_exchange hw ha hc hlong
  have herase : ((C.erase c).map Prod.snd).Perm (D.map Prod.snd) :=
    (((List.perm_cons_erase hc).map Prod.snd).symm.trans hDs).cons_inv
  obtain ⟨d, hd, hdp⟩ := List.mem_map.mp (herase.mem_iff.mp hsibling)
  have hlen : c.2.length = p.length + 1 ∧ d.2.length = p.length + 1 := by simp [hp, hdp]
  have hwords {W : List (List Bool)} (hW : (C.map Prod.snd).Perm W) : ∀ v ∈ W, v.length ≤ p.length + 1 := fun v hv => by
    obtain ⟨e, he, rfl⟩ := List.mem_map.mp (hW.mem_iff.mpr hv)
    exact hlen.1 ▸ hlong e he
  obtain ⟨E, hEw, hEs, hEc⟩ := exists_exchange hDw hb hd fun e he =>
    hlen.2 ▸ hwords hDs e.2 (List.mem_cons_of_mem _ (List.mem_map_of_mem he))
  have hall := hDs.trans (hEs.cons c.2)
  rw [hp, hdp] at hall
  have hfree := (isPrefixCode_iff.mp hC).perm hall
  obtain ⟨-, hrest⟩ := List.pairwise_cons.mp hfree
  obtain ⟨hnew, -⟩ := List.pairwise_cons.mp hrest
  have hcut : PrefixFree (p :: E.map Prod.snd) := by
    refine PrefixFree.shorten (x := x) (hfree.sublist ((List.sublist_cons_self _ _).cons_cons _)) (fun v hv => ?_)
      fun hmem => (hnew _ hmem).1 List.prefix_rfl
    simpa using hwords hall v (List.mem_cons_of_mem _ (List.mem_cons_of_mem _ hv))
  refine ⟨(a + b, p) :: E, isPrefixCode_iff.mpr hcut, hEw.cons _, ?_⟩
  rw [hlen.1, Nat.mul_succ] at hDc
  rw [hlen.2, Nat.mul_succ] at hEc
  rw [wordCost_cons, Nat.add_mul]
  simp only
  omega

/-- The two least counts of a `PrefixFree` code may be joined: some such code for the other counts and their sum is
cheaper by the sum. By induction on the number of bits: a longest word that differs from no other in its last bit alone
is cut. -/
theorem exists_joined_code {a b : Nat} {ws : List Nat} (ha : ∀ w ∈ b :: ws, a ≤ w) (hb : ∀ w ∈ ws, b ≤ w)
    {C : List (Nat × List Bool)} (hC : isPrefixCode C) (hw : (C.map Prod.fst).Perm (a :: b :: ws)) :
    ∃ D, isPrefixCode D ∧ (D.map Prod.fst).Perm ((a + b) :: ws) ∧ wordCost D + (a + b) ≤ wordCost C := by
  induction hn : (C.map fun c => c.2.length).sum using Nat.strong_induction_on generalizing C with
  | _ n ih =>
    subst hn
    have hlen : C.length = ws.length + 2 := by simpa using hw.length_eq
    have hne : C ≠ [] := List.ne_nil_of_length_pos (by omega)
    obtain ⟨c, hc, hlong⟩ := exists_longest hne
    obtain ⟨p, x, hp⟩ := exists_last_bit hC (by omega) hc
    by_cases hsibling : p ++ [!x] ∈ (C.erase c).map Prod.snd
    · exact exists_joined_of_sibling ha hb hC hw hc hlong hp hsibling
    have hsplit := List.perm_cons_erase hc
    have hshorter : p.length < c.2.length := by simp [hp]
    have hcut : isPrefixCode ((c.1, p) :: C.erase c) := by
      have hfree := (isPrefixCode_iff.mp hC).perm (hsplit.map Prod.snd)
      rw [List.map_cons, hp] at hfree
      refine isPrefixCode_iff.mpr (hfree.shorten (fun v hv => ?_) hsibling)
      obtain ⟨e, he, rfl⟩ := List.mem_map.mp hv
      exact hp ▸ hlong e (List.mem_of_mem_erase he)
    have hbits : (((c.1, p) :: C.erase c).map fun c => c.2.length).sum < (C.map fun c => c.2.length).sum := by
      rw [(hsplit.map _).sum_eq]
      simpa using hshorter
    obtain ⟨D, hD, hDw, hcost⟩ := ih _ hbits hcut ((hsplit.map Prod.fst).symm.trans hw) rfl
    refine ⟨D, hD, hDw, hcost.trans ?_⟩
    rw [wordCost_perm hsplit, wordCost_cons, wordCost_cons]
    exact Nat.add_le_add_right (Nat.mul_le_mul_left _ hshorter.le) _

/-! The cost of a tree. -/

/-- The sum of the counts at the leaves (R115). -/
def treeWeight (f : FreqTable P) (t : CodeTree P) : Nat :=
  ((leavesOf t).map fun x => symbolCount f x.toNat).sum

/-- A tree one link further down costs its weight more (R122). -/
theorem costOf_succ (f : FreqTable P) (t : CodeTree P) (d : Nat) :
    costOf f t (d + 1) = costOf f t d + treeWeight f t := by
  induction t generalizing d with
  | leaf x => simp [costOf, treeWeight, leavesOf, symbolCount, Nat.mul_succ]
  | node a b iha ihb =>
    simp only [costOf, iha, ihb, treeWeight, leavesOf, List.map_append, List.sum_append]
    omega

/-- The cost of a tree that may be empty (R122). -/
def anyCost (f : FreqTable P) (a : AnyTree P) : Nat := (a.map fun t => costOf f t 0).getD 0

/-- The members' weights are those of their trees (R115, R121). -/
def Weighed (f : FreqTable P) (F : List (Grown P)) : Prop := ∀ g ∈ F, g.w = treeWeight f g.t

theorem w_le_of_grownLt {x y : Grown P} (h : grownLt x y = true) : x.w ≤ y.w := by
  rw [grownLt_iff] at h
  omega

/-- The merges of a forest cost no more, beyond its trees, than any `PrefixFree` code for its weights. -/
theorem Merges.cost_le {f : FreqTable P} {F : List (Grown P)} {q : Nat} {a : AnyTree P} (h : Merges F q a)
    (hF : Weighed f F) {C : List (Nat × List Bool)} (hC : isPrefixCode C)
    (hw : (C.map Prod.fst).Perm (F.map Any.Grown.w)) :
    anyCost f a ≤ (F.map fun g => costOf f g.t 0).sum + wordCost C := by
  induction h generalizing C with
  | none => exact Nat.zero_le _
  | one x => simp [anyCost]
  | @join F rest x y q a hperm hx hy _ ih =>
    obtain ⟨hwx, hwy, hrest⟩ : x.w = treeWeight f x.t ∧ y.w = treeWeight f y.t ∧ Weighed f rest := by
      simpa [Weighed] using fun g hg => hF g (hperm.mem_iff.mpr hg)
    have hjoined : Weighed f (joined x y q :: rest) := by
      refine List.forall_mem_cons.mpr ⟨?_, hrest⟩
      simp [joined, treeWeight, leavesOf, hwx, hwy]
    have hxw : ∀ w ∈ (y :: rest).map Any.Grown.w, x.w ≤ w :=
      List.forall_mem_map.mpr fun z hz => w_le_of_grownLt (hx z hz)
    have hyw : ∀ w ∈ rest.map Any.Grown.w, y.w ≤ w := List.forall_mem_map.mpr fun z hz => w_le_of_grownLt (hy z hz)
    obtain ⟨D, hD, hDw, hcost⟩ := exists_joined_code hxw hyw hC (hw.trans (hperm.map _))
    have hle := ih hjoined hD hDw
    have hnode : costOf f (joined x y q).t 0 = costOf f x.t 0 + x.w + (costOf f y.t 0 + y.w) := by
      rw [joined, costOf, costOf_succ, costOf_succ, hwx, hwy]
    rw [(hperm.map _).sum_eq]
    simp only [List.map_cons, List.sum_cons, hnode] at hle ⊢
    omega

/-- A leaf weighs the count of its symbol (R112). -/
theorem forest0_weighed (hP : P.ok) (f : FreqTable P) : Weighed f (forest0 f) := by
  have htrees : (forest0 f).map (fun g => treeWeight f g.t) = (positives f).map (symbolCount f) :=
    map_forest0 f _ _ fun i hi q => by
      obtain ⟨hlt, -⟩ := mem_positives hi
      simp [leafGrown, treeWeight, leavesOf, sym_toNat hP hlt]
  exact List.map_inj_left.mp ((map_w_forest0 f).trans htrees.symm)

/-- Settles O26: the merges start from leaves at depth 0, which cost nothing, with the positive counts as weights. -/
theorem buildIsOptimal : Obligations.BuildIsOptimal := by
  unfold Obligations.BuildIsOptimal
  intro P f code hP hsyms hcode
  have hroots : (forest0 f).map (fun g => costOf f g.t 0) = (positives f).map fun _ => 0 :=
    map_forest0 f _ _ fun _ _ _ => rfl
  have hcounts : isPrefixCode (code.map fun q => (symbolCount f q.1, q.2)) := List.pairwise_map.mpr hcode
  have hperm : ((code.map fun q => (symbolCount f q.1, q.2)).map Prod.fst).Perm ((forest0 f).map Any.Grown.w) := by
    rw [map_w_forest0, List.map_map]
    simpa [Function.comp_def] using hsyms.map (symbolCount f)
  have hle := (merges_buildTree f).cost_le (forest0_weighed hP f) hcounts hperm
  rw [hroots, List.map_const', List.sum_replicate, smul_zero, Nat.zero_add, wordCost, List.map_map] at hle
  exact hle

end Sys2Proof.Machine
end

section
/-! PROOFS. BUILD computes the merge of the forest (R117, R119, R121): the queue of a state in BUILD holds the roots of
the stored members of a forest, each at its sequence number. A scan adds a leaf to both, a merge joins the same two
members in both. -/

namespace Sys2Proof.Machine

variable {P : Params}

/-! Stored trees and new records. -/

/-- A stored tree stays stored while its records read as before (R13). -/
theorem treeAt_of_reads {m m' : Memory P} (h : ∀ j r, nodeRead m j = .ok r → nodeRead m' j = .ok r) {t : CodeTree P}
    {i : Idx P} (ht : treeAt m t i) : treeAt m' t i := by
  induction t generalizing i with
  | leaf x =>
    obtain ⟨r, hr, hl⟩ := ht
    exact ⟨r, h i r hr, hl⟩
  | node a b iha ihb =>
    obtain ⟨r, hr, hl, ha, hb⟩ := ht
    exact ⟨r, h i r hr, hl, iha ha, ihb hb⟩

/-! The forest in the store. -/

/-- A member of a forest stands at an index: a record of its weight, the root of its tree (R121). -/
structure Stands (m : Memory P) (g : Grown P) (i : Idx P) : Prop where
  record : ∃ r, nodeRead m i = .ok r ∧ r.W.toNat = g.w
  tree : treeAt m g.t i

/-- The queue holds the roots of a forest at the members' sequence numbers; no record from NEXT on is written (R121). -/
structure HoldsForest (s : State P) (F : List (Grown P)) : Prop where
  queue : (s.PQ.map BitVec.toNat).Perm (F.map Any.Grown.q)
  numbered : Numbered F s.NEXT.toNat
  stands : ∀ g ∈ F, ∀ i : Idx P, i.toNat = g.q → Stands s.NODE g i
  written : ∀ i r, nodeRead s.NODE i = .ok r → i.toNat < s.NEXT.toNat

namespace HoldsForest

variable {s : State P} {F : List (Grown P)}

theorem perm (h : HoldsForest s F) {G : List (Grown P)} (hp : F.Perm G) : HoldsForest s G :=
  { queue := h.queue.trans (hp.map _)
    numbered := h.numbered.perm hp
    stands := fun g hg => h.stands g (hp.mem_iff.mpr hg)
    written := h.written }

theorem nodup (h : HoldsForest s F) : s.PQ.Nodup :=
  (h.queue.nodup_iff.mpr h.numbered.distinct).of_map

theorem length_eq (h : HoldsForest s F) : s.PQ.length = F.length := by
  simpa using h.queue.length_eq

/-- Every queued index is the root of a member. -/
theorem exists_member (h : HoldsForest s F) {i : Idx P} (hi : i ∈ s.PQ) :
    ∃ g ∈ F, i.toNat = g.q ∧ Stands s.NODE g i := by
  obtain ⟨g, hg, hq⟩ := List.mem_map.mp (h.queue.mem_iff.mp (List.mem_map_of_mem hi))
  exact ⟨g, hg, hq.symm, h.stands g hg i hq.symm⟩

/-- Every member has its root in the queue. -/
theorem exists_queued (h : HoldsForest s F) {g : Grown P} (hg : g ∈ F) :
    ∃ i ∈ s.PQ, i.toNat = g.q ∧ Stands s.NODE g i := by
  obtain ⟨i, hi, hq⟩ := List.mem_map.mp (h.queue.mem_iff.mpr (List.mem_map_of_mem hg))
  exact ⟨i, hi, hq, h.stands g hg i hq⟩

theorem queued_lt (h : HoldsForest s F) : ∀ i ∈ s.PQ, i.toNat < s.NEXT.toNat := fun i hi => by
  obtain ⟨g, hg, hq, -⟩ := h.exists_member hi
  exact hq ▸ h.numbered.below g hg

theorem readable (h : HoldsForest s F) : ∀ i ∈ s.PQ, ∃ r, nodeRead s.NODE i = .ok r := fun i hi => by
  obtain ⟨g, -, -, ⟨r, hr, -⟩, -⟩ := h.exists_member hi
  exact ⟨r, hr⟩

/-- The empty store with an empty queue holds the empty forest (R111). -/
theorem empty (hnode : s.NODE = []) (hqueue : s.PQ = []) : HoldsForest s [] := by
  refine ⟨by simp [hqueue], ⟨List.nodup_nil, by simp⟩, by simp, fun i r hr => ?_⟩
  obtain ⟨f, hf⟩ := nodeRead_nil i
  cases (hnode ▸ hr).symm.trans hf

/-- The records written before a node is made read as before (R36, R54). -/
theorem read_kept (hP : P.ok) (h : HoldsForest s F) (hcap : s.NEXT.toNat < P.NODE_CAP) (r : NodeRec P) :
    ∀ i u, nodeRead s.NODE i = .ok u → nodeRead (addNode r s).NODE i = .ok u := fun i u hu => by
  have hne : i ≠ s.NEXT.setWidth P.IDX_BITS := fun e =>
    Nat.ne_of_lt (h.written i u hu) (by rw [e, next_idx_toNat hP hcap])
  exact (nodeRead_alloc_ne hP r hcap hne).trans hu

/-- A member whose root is made at NEXT and queued joins the forest. -/
theorem add (hP : P.ok) (h : HoldsForest s F) (hcap : s.NEXT.toNat < P.NODE_CAP) {g : Grown P}
    (hq : g.q = s.NEXT.toNat) {r : NodeRec P} (hw : r.W.toNat = g.w)
    (ht : treeAt (addNode r s).NODE g.t (s.NEXT.setWidth P.IDX_BITS)) : HoldsForest (addNode r s) (g :: F) := by
  have hnew := next_idx_toNat hP hcap
  have hnext : (addNode r s).NEXT.toNat = s.NEXT.toNat + 1 := next_add_one_toNat hP hcap
  have hkept := h.read_kept hP hcap r
  refine ⟨?_, hnext ▸ h.numbered.cons hq, List.forall_mem_cons.mpr ⟨fun i hi => ?_, fun z hz i hi => ?_⟩,
    fun i u hu => ?_⟩
  · have hperm := queueAdd_perm (new_not_mem_queue hP hcap h.queued_lt)
    refine (hperm.map BitVec.toNat).trans ?_
    rw [List.map_cons, List.map_cons, hnew, hq]
    exact h.queue.cons _
  · obtain rfl : i = s.NEXT.setWidth P.IDX_BITS := BitVec.eq_of_toNat_eq (by rw [hi, hq, hnew])
    exact ⟨⟨r, nodeRead_alloc_new hP r hcap, hw⟩, ht⟩
  · obtain ⟨⟨u, hu, huw⟩, htree⟩ := h.stands z hz i hi
    exact ⟨⟨u, hkept i u hu, huw⟩, treeAt_of_reads hkept htree⟩
  · rw [hnext]
    by_cases hi : i = s.NEXT.setWidth P.IDX_BITS
    · rw [hi, hnew]
      exact Nat.lt_succ_self _
    · have hold : nodeRead s.NODE i = .ok u := (nodeRead_alloc_ne hP r hcap hi).symm.trans hu
      exact Nat.lt_succ_of_lt (h.written i u hold)

/-- The queued index with the least key is the root of the least member (R57, R121). -/
theorem least_eq {x : Grown P} (h : HoldsForest s (x :: F)) (hx : ∀ z ∈ F, grownLt x z = true) {a : Idx P}
    {ra : NodeRec P} (ha : a ∈ s.PQ) (hra : nodeRead s.NODE a = .ok ra)
    (hleast : ∀ j r, j ∈ s.PQ → j ≠ a → nodeRead s.NODE j = .ok r → ra.W < r.W ∨ (ra.W = r.W ∧ a < j)) :
    a.toNat = x.q := by
  obtain ⟨g, hg, hgq, ⟨r, hr, hrw⟩, -⟩ := h.exists_member ha
  obtain rfl := Except.ok.inj (hra.symm.trans hr)
  rcases List.mem_cons.mp hg with rfl | hg
  · exact hgq
  obtain ⟨i, hi, hiq, ⟨ri, hri, hriw⟩, -⟩ := h.exists_queued List.mem_cons_self
  have hlt := grownLt_iff.mp (hx g hg)
  have hne : i ≠ a := fun e => by
    obtain ⟨hx, -⟩ := List.nodup_cons.mp h.numbered.distinct
    exact hx (List.mem_map.mpr ⟨g, hg, by rw [← hgq, ← hiq, e]⟩)
  have hkey := hleast i ri hi hne hri
  rw [BitVec.lt_def, BitVec.lt_def, ← BitVec.toNat_inj] at hkey
  omega

/-- The root of a member taken off the queue takes the member off the forest. -/
theorem remove {x : Grown P} (h : HoldsForest s (x :: F)) {a : Idx P} (ha : a ∈ s.PQ) (hax : a.toNat = x.q) :
    HoldsForest { s with PQ := s.PQ.erase a } F := by
  refine ⟨?_, h.numbered.tail, fun g hg => h.stands g (List.mem_cons_of_mem _ hg), h.written⟩
  have hsplit := ((List.perm_cons_erase ha).map BitVec.toNat).symm.trans h.queue
  rw [List.map_cons, List.map_cons, hax] at hsplit
  exact hsplit.cons_inv

/-- A merge joins the two least members of the forest (R114, R115, R121): their weights' sum fits the weight field. -/
theorem exists_buildMerge (hP : P.ok) {x y : Grown P} {rest : List (Grown P)} (h : HoldsForest s F)
    (hF : F.Perm (x :: y :: rest)) (hx : ∀ z ∈ y :: rest, grownLt x z = true) (hy : ∀ z ∈ rest, grownLt y z = true)
    (hweights : (F.map Any.Grown.w).sum < 2 ^ P.WEIGHT_BITS) (hcap : s.NEXT.toNat < P.NODE_CAP)
    (hlen : F.length ≤ P.PQ_CAP) :
    ∃ r q, buildMerge s = .ok (addNode r { s with PQ := q }) ∧
      HoldsForest (addNode r { s with PQ := q }) (joined x y s.NEXT.toNat :: rest) := by
  have h2 : 2 ≤ s.PQ.length := by simp [h.length_eq, hF.length_eq]
  obtain ⟨a, b, ra, rb, hleast, hmerge⟩ :=
    exists_buildMerge_eq hP h2 (h.length_eq ▸ hlen) h.nodup h.queued_lt h.readable hcap
  have hfst := h.perm hF
  have hax := hfst.least_eq hx hleast.fst hleast.readFst hleast.fstLeast
  have hsnd := hfst.remove hleast.fst hax
  have hby := hsnd.least_eq hy hleast.snd hleast.readSnd hleast.sndLeast
  have hrest := hsnd.remove hleast.snd hby
  obtain ⟨⟨ra', hra, hxw⟩, htx⟩ := hfst.stands x List.mem_cons_self a hax
  obtain ⟨⟨rb', hrb, hyw⟩, hty⟩ := hsnd.stands y List.mem_cons_self b hby
  obtain rfl := Except.ok.inj (hleast.readFst.symm.trans hra)
  obtain rfl := Except.ok.inj (hleast.readSnd.symm.trans hrb)
  have hsum : (ra.W + rb.W).toNat = x.w + y.w := by
    rw [(hF.map _).sum_eq, List.map_cons, List.map_cons, List.sum_cons, List.sum_cons] at hweights
    rw [BitVec.toNat_add_of_lt (by omega), hxw, hyw]
  have hinner : isLeaf (mergedNode ra.W rb.W a b) = false :=
    (finished_mergedNode ra.W rb.W (nodeRead_ne_nil hra) (nodeRead_ne_nil hrb)).1.symm
  have hkept := hrest.read_kept hP hcap (mergedNode ra.W rb.W a b)
  exact ⟨_, _, hmerge, hrest.add hP hcap rfl hsum
    ⟨_, nodeRead_alloc_new hP _ hcap, hinner, treeAt_of_reads hkept htx, treeAt_of_reads hkept hty⟩⟩

end HoldsForest

/-! The scan. -/

/-- BUILD's state after the scan of the symbols below `n` of the table bound to FREQ (R112, R117). -/
structure Scanned (f : FreqTable P) (n : Nat) (s : State P) : Prop where
  forest : HoldsForest s (forestUpTo f n)
  made : s.NEXT.toNat = (positivesUpTo f n).length
  index : s.I.toNat = n
  bound : s.FREQ = some f
  phase : s.PHASE = if n = P.N_SYM then .bMerge else .bScan

/-- BUILD starts with no symbol scanned (R111). -/
theorem scanned_buildStart (hP : P.ok) (s : State P) : Scanned s.offer.freq 0 (buildStart (bindFreq s)) := by
  obtain ⟨hn, -⟩ := hP
  exact {
    forest := .empty rfl rfl
    made := rfl
    index := rfl
    bound := rfl
    phase := (if_neg (Nat.ne_of_lt hn)).symm }

/-- A scan step scans one symbol, and leaves the host's side and CAUSE (R112, R113). -/
theorem Scanned.exists_buildScan (hP : P.ok) {f : FreqTable P} {n : Nat} {s : State P} (h : Scanned f n s)
    (hn : n < P.N_SYM) : ∃ t, buildScan s = .ok t ∧ Scanned f (n + 1) t ∧ t.script = s.script ∧ t.CAUSE = s.CAUSE := by
  obtain ⟨hforest, hmade, rfl, hbound, hphase⟩ := h
  rw [if_neg (Nat.ne_of_lt hn)] at hphase
  have hget : f.toList[s.I.toNat]? = some (f.toList.getD s.I.toNat 0) := by
    rw [List.getD_eq_getElem?_getD, List.getElem?_eq_getElem (by simpa using hn)]
    rfl
  have hcount := freqAt_of_bound hbound hget
  have hindex : (s.I + 1).toNat = s.I.toNat + 1 := scan_add_one_toNat hP hn
  have hnext := hphase ▸ scanNext_PHASE hP hn
  by_cases hpos : countPositive (f.toList.getD s.I.toNat 0) = true
  · have hlen := length_positivesUpTo_le f s.I.toNat
    have hqueue := hforest.length_eq
    rw [length_forestUpTo] at hqueue
    obtain ⟨hcap, hroom⟩ : s.NEXT.toNat < P.NODE_CAP ∧ s.PQ.length < P.PQ_CAP := by
      obtain ⟨-, -, -, -, hnode, -, -, -, hpq, -⟩ := hP
      omega
    refine ⟨_, buildScan_leaf hP hcount hpos hcap hroom hforest.queued_lt, ?_, rfl, rfl⟩
    have hleaf := hforest.add hP hcap (g := leafGrown f s.I.toNat (positivesUpTo f s.I.toNat).length) hmade.symm
      (r := leafNode s.I (f.toList.getD s.I.toNat 0)) (countWeight_toNat hP _)
      ⟨_, nodeRead_alloc_new hP _ hcap, by simp [isLeaf, leafNode], (BitVec.ofNat_toNat _ _).symm⟩
    have hnew := hleaf.perm (List.perm_append_singleton _ _).symm
    rw [← forestUpTo_succ_of_pos hpos] at hnew
    have hnextIdx := next_add_one_toNat hP hcap
    exact {
      forest := { hnew with }
      made := by rw [positivesUpTo_succ_of_pos hpos, List.length_append, ← hmade]; exact hnextIdx
      index := hindex
      bound := hbound
      phase := hnext }
  · have hpos : countPositive (f.toList.getD s.I.toNat 0) = false := by simpa using hpos
    refine ⟨_, buildScan_skip hcount hpos, ?_, rfl, rfl⟩
    have hsame := positivesUpTo_succ_of_not hpos
    have hsameForest : forestUpTo f (s.I.toNat + 1) = forestUpTo f s.I.toNat := by rw [forestUpTo, hsame, forestUpTo]
    exact {
      forest := hsameForest ▸ { hforest with }
      made := hsame ▸ hmade
      index := hindex
      bound := hbound
      phase := hnext }

/-! The weights. -/

/-- The positive counts together fit the weight field (R8, R115). -/
theorem sum_forest0_lt (hP : P.ok) (f : FreqTable P) : ((forest0 f).map Any.Grown.w).sum < 2 ^ P.WEIGHT_BITS := by
  have hcounts : ∀ w ∈ (positives f).map (symbolCount f), w ≤ 2 ^ (P.COUNT_BITS - 1) - 1 :=
    List.forall_mem_map.mpr fun i hi => by
      obtain ⟨-, hpos⟩ := mem_positives hi
      obtain ⟨-, hlt⟩ := toNat_of_countPositive hP hpos
      exact Nat.le_sub_one_of_lt hlt
  have hsum := List.sum_le_card_nsmul _ _ hcounts
  have hlen : ((positives f).map (symbolCount f)).length ≤ 2 ^ P.SYM_BITS := by
    rw [List.length_map]
    exact (length_positivesUpTo_le f P.N_SYM).trans (n_sym_le hP)
  have hweight : 2 ^ P.WEIGHT_BITS = 2 ^ P.SYM_BITS * 2 ^ (P.COUNT_BITS - 1) := by
    obtain ⟨-, -, -, hw, -⟩ := hP
    rw [hw, Nat.add_comm, Nat.pow_add]
  rw [map_w_forest0, hweight]
  calc ((positives f).map (symbolCount f)).sum
      _ ≤ ((positives f).map (symbolCount f)).length * (2 ^ (P.COUNT_BITS - 1) - 1) := hsum
      _ ≤ 2 ^ P.SYM_BITS * (2 ^ (P.COUNT_BITS - 1) - 1) := Nat.mul_le_mul_right _ hlen
      _ < 2 ^ P.SYM_BITS * 2 ^ (P.COUNT_BITS - 1) :=
        Nat.mul_lt_mul_of_pos_left (Nat.sub_one_lt (Nat.two_pow_pos _).ne') (Nat.two_pow_pos _)

/-! Runs. -/

/-- A run of one step more is a step and then a run. -/
theorem runsTo_succ {s t : State} {k : Nat} : RunsTo (k + 1) s t ↔ ∃ s1, step s = .next s1 ∧ RunsTo k s1 t := by
  have hcore : Sys2Proof.core.step s = step s := rfl
  simp only [RunsTo, Host.Core.run, hcore]
  cases step s <;> simp

/-- A run and then a run. -/
theorem runsTo_add {s t u : State} {j k : Nat} (hj : RunsTo j s t) (hk : RunsTo k t u) : RunsTo (j + k) s u := by
  induction j generalizing s with
  | zero =>
    obtain rfl : s = t := Host.Outcome.next.inj hj
    rwa [Nat.zero_add]
  | succ j ih =>
    obtain ⟨s1, hstep, hj⟩ := runsTo_succ.mp hj
    rw [Nat.add_right_comm]
    exact runsTo_succ.mpr ⟨s1, hstep, ih hj⟩

/-- The scan runs to its end (R112, R119). -/
theorem Scanned.run {f : FreqTable} {n : Nat} {s : State} (h : Scanned f n s) (hn : n ≤ hw.N_SYM)
    (hscript : s.script = []) :
    ∃ t, RunsTo (hw.N_SYM - n) s t ∧ Scanned f hw.N_SYM t ∧ t.script = [] ∧ t.CAUSE = s.CAUSE := by
  induction hk : hw.N_SYM - n generalizing n s with
  | zero =>
    obtain rfl : n = hw.N_SYM := by omega
    exact ⟨s, rfl, h, hscript, rfl⟩
  | succ k ih =>
    have hlt : n < hw.N_SYM := by omega
    obtain ⟨s1, hscan, h1, hscript1, hcause1⟩ := h.exists_buildScan hw_ok hlt
    obtain ⟨t, hrun, ht, hscript', hcause⟩ := ih h1 hlt (hscript1.trans hscript) (by omega)
    have hphase : s.PHASE = .bScan := h.phase.trans (if_neg (Nat.ne_of_lt hlt))
    have hstep := step_bScan (.inl ⟨hscript, rfl⟩) hphase hscan
    exact ⟨t, runsTo_succ.mpr ⟨s1, hstep, hrun⟩, ht, hscript', hcause.trans hcause1⟩

/-- What a BUILD that has completed leaves: a valid tree, NEXT, and CAUSE as it was (R116). -/
structure Built (a : AnyTree) (next : Nat) (c : Cause) (t : State) : Prop where
  phase : t.PHASE = .idle
  valid : t.TV = true
  cause : t.CAUSE = c
  tree : treeOf t.NODE a t.ROOT
  made : t.NEXT.toNat = next

/-- The merges run to their end, one step for each and one to finish (R114, R116, R119). -/
theorem Merges.run {F : List Grown} {q : Nat} {a : AnyTree} (hm : Merges F q a) {s : State} (h : HoldsForest s F)
    (hq : s.NEXT.toNat = q) (hweights : (F.map Any.Grown.w).sum < 2 ^ hw.WEIGHT_BITS)
    (hroom : q + F.length ≤ 2 * hw.N_SYM) (hlen : F.length ≤ hw.PQ_CAP) (hp : s.PHASE = .bMerge)
    (hscript : s.script = []) :
    ∃ t, RunsTo (F.length - 1 + 1) s t ∧ Built a (q + (F.length - 1)) s.CAUSE t := by
  induction hm generalizing s with
  | none q =>
    have hqueue : s.PQ = [] := List.eq_nil_of_length_eq_zero h.length_eq
    have hstep := step_bFinish (.inl ⟨hscript, rfl⟩) hp (by simp [hqueue])
    exact ⟨_, runsTo_succ.mpr ⟨_, hstep, rfl⟩, rfl, rfl, rfl, by simp [buildFinish, hqueue, treeOf], hq⟩
  | one x q =>
    obtain ⟨i, hi⟩ := List.length_eq_one_iff.mp h.length_eq
    have hstep := step_bFinish (.inl ⟨hscript, rfl⟩) hp (by simp [hi])
    obtain ⟨g, hg, -, -, htree⟩ := h.exists_member (i := i) (by simp [hi])
    obtain rfl := List.mem_singleton.mp hg
    exact ⟨_, runsTo_succ.mpr ⟨_, hstep, rfl⟩, rfl, rfl, rfl, by simpa [buildFinish, hi, treeOf] using htree, hq⟩
  | @join F rest x y q a hF hx hy _ ih =>
    have hcount := hF.length_eq
    simp only [List.length_cons] at hcount
    have hcap : s.NEXT.toNat < hw.NODE_CAP := by
      rw [hw_N_SYM] at hroom
      rw [hw_NODE_CAP]
      omega
    obtain ⟨r, p, hmerge, h1⟩ := h.exists_buildMerge hw_ok hF hx hy hweights hcap hlen
    rw [hq] at h1
    have hstep := step_bMerge (.inl ⟨hscript, rfl⟩) hp (by rw [h.length_eq]; omega) hmerge
    have hweights1 : ((joined x y q :: rest).map Any.Grown.w).sum < 2 ^ hw.WEIGHT_BITS := by
      rw [(hF.map _).sum_eq] at hweights
      simpa [joined, Nat.add_assoc] using hweights
    have hnext : (addNode r { s with PQ := p }).NEXT.toNat = q + 1 := hq ▸ next_add_one_toNat hw_ok hcap
    obtain ⟨t, hrun, hbuilt⟩ := ih h1 hnext hweights1 (by rw [List.length_cons]; omega)
      (by rw [List.length_cons]; omega) hp hscript
    simp only [List.length_cons] at hrun hbuilt
    refine ⟨t, ?_, ?_⟩
    · rw [show F.length - 1 + 1 = rest.length + 1 - 1 + 1 + 1 by omega]
      exact runsTo_succ.mpr ⟨_, hstep, hrun⟩
    · rw [show q + (F.length - 1) = q + 1 + (rest.length + 1 - 1) by omega]
      exact hbuilt

/-- Settles O24: the scan leaves the forest of positive counts, the merges run it down, and each step of both is a step
of the run. -/
theorem buildComputesForestMerge : Obligations.BuildComputesForestMerge := by
  unfold Obligations.BuildComputesForestMerge
  intro s hp hscript k
  have hstart : exec .build s = .next (buildStart (bindFreq s)) := exec_command_idle (i := .build) rfl hp
  obtain ⟨t1, hscan, h1, hscript1, hcause1⟩ := (scanned_buildStart hw_ok s).run (Nat.zero_le _) hscript
  have hk : (forest0 s.offer.freq).length = k := length_forestUpTo s.offer.freq hw.N_SYM
  have hle : k ≤ hw.N_SYM := length_positivesUpTo_le s.offer.freq hw.N_SYM
  have hforest : HoldsForest t1 (forest0 s.offer.freq) := h1.forest
  have hmade : t1.NEXT.toNat = k := h1.made
  obtain ⟨t, hmerge, hbuilt⟩ := (merges_buildTree s.offer.freq).run hforest hmade (sum_forest0_lt hw_ok _)
    (by omega) (by rw [hk]; exact hle) h1.phase hscript1
  rw [hk] at hmerge hbuilt
  refine ⟨_, t, hstart, ?_, hbuilt.phase, hbuilt.valid, hbuilt.cause.trans hcause1, hbuilt.tree, ?_⟩
  · rw [Nat.add_assoc]
    exact runsTo_add hscan hmerge
  · rw [hbuilt.made]
    split <;> omega

end Sys2Proof.Machine
end

section
/-! PROOFS. RESTORE's steps (R131 to R148): what a character of each class does, said once for any parameters of R8, and
the end of the input as a step of this hardware. -/

namespace Sys2Proof.Machine

variable {P : Params}

/-! A character. -/

/-- A character to read in its phase runs the step of its class, with the character consumed (R133). -/
theorem onChar_of_head {p : Phase} {k : State P → Op (State P)} {s : State P} {c : Byte} {cs : List Byte}
    (hp : s.PHASE = p) (hin : s.IN_TEXT = some (c :: cs)) :
    onChar p k s = settle (k { s with IN_TEXT := some cs }) := by
  simp only [onChar, tinNext, hp, hin, if_true]

/-- The ten digit instructions run one step, each with its value (R93, R134). -/
theorem exec_digit {p : Instr × Nat} (hp : p ∈ digitInstrs) (s : State) :
    exec p.1 s = onChar .rSym (symDigit p.2) s ∧ p.2 < 10 := by
  simp only [digitInstrs, List.mem_cons, List.not_mem_nil, or_false] at hp
  obtain rfl | rfl | rfl | rfl | rfl | rfl | rfl | rfl | rfl | rfl := hp <;> exact ⟨rfl, by decide⟩

/-- The two bit characters run one step, each with its bit (R93, R140). -/
theorem exec_bitChar {p : Instr × Bool} (hp : p ∈ bitCharInstrs) (s : State) :
    exec p.1 s = onChar .rBits (restoreBit p.2) s := by
  simp only [bitCharInstrs, List.mem_cons, List.not_mem_nil, or_false] at hp
  obtain rfl | rfl := hp <;> rfl

/-! The symbol line. -/

/-- Ten times a symbol plus a digit does not leave the accumulator (R10, R134). -/
theorem accumulate_toNat (hP : P.ok) {acc : BitVec (P.SYM_BITS + 4)} (hacc : acc.toNat < P.N_SYM) {d : Nat}
    (hd : d < 10) : (acc * 10 + BitVec.ofNat (P.SYM_BITS + 4) d).toNat = acc.toNat * 10 + d := by
  have hsym := n_sym_le hP
  have hpow : 2 ^ (P.SYM_BITS + 4) = 16 * 2 ^ P.SYM_BITS := by rw [Nat.pow_add, Nat.mul_comm]
  have hmod : 10 % 2 ^ (P.SYM_BITS + 4) = 10 := Nat.mod_eq_of_lt (by omega)
  have hten : (10 : BitVec (P.SYM_BITS + 4)).toNat = 10 := hmod
  rw [BitVec.toNat_add, BitVec.toNat_mul, hten, BitVec.toNat_ofNat, Nat.mod_eq_of_lt (a := d) (by omega),
    Nat.mod_eq_of_lt (a := acc.toNat * 10) (by omega), Nat.mod_eq_of_lt (by omega)]

/-- Settles O27: the step is RESTORE.sym_digit, whose range test is on the exact value. -/
theorem digitAccumulates : Obligations.DigitAccumulates := by
  unfold Obligations.DigitAccumulates
  intro p hp s c cs hphase hin hacc
  obtain ⟨hexec, hd⟩ := exec_digit hp s
  have hnat := accumulate_toNat hw_ok hacc hd
  rw [hexec, onChar_of_head hphase hin, symDigit, settle_ok]
  refine ⟨_, rfl, ?_⟩
  split
  · rename_i hge
    exact ⟨hnat, rfl, rfl, fun hlt => absurd (hnat ▸ hge) (Nat.not_le_of_lt hlt), fun _ => ⟨rfl, rfl⟩, rfl⟩
  · rename_i hlt
    exact ⟨hnat, rfl, rfl, fun _ => ⟨rfl, hphase⟩, fun hge => absurd (hnat ▸ hge) hlt, rfl⟩

/-- Settles O28: the three outcomes of RESTORE.sym_lf in its order. -/
theorem symbolLineEnds : Obligations.SymbolLineEnds := by
  unfold Obligations.SymbolLineEnds
  intro s c cs hp hin
  have hexec : exec .symLf s = settle (symLf { s with IN_TEXT := some cs }) := onChar_of_head hp hin
  refine ⟨fun hd => ?_, fun hd htaken => ?_, fun hd hfree => ?_⟩
  · simp only [hexec, symLf, hd, if_true, settle_ok, raise]
  · simp only [hexec, symLf, hd, htaken, Bool.true_eq_false, if_false, settle_ok, raise]
  · simp only [hexec, symLf, hd, hfree, Bool.true_eq_false, if_false, settle_ok, symAccept, BitVec.ofNat_toNat]

/-- Settles O29: both classes raise their line's fault at once. -/
theorem otherCharactersFault : Obligations.OtherCharactersFault := by
  unfold Obligations.OtherCharactersFault
  intro d s c cs hin
  exact ⟨fun hp => onChar_of_head (k := symOther) hp hin, fun hp => onChar_of_head (k := bitsOther) hp hin⟩

end Sys2Proof.Machine
end

section
/-! PROOFS. RESTORE's bit-string lines and the end of its input (R140 to R148, R154). -/

namespace Sys2Proof.Machine

variable {P : Params}

/-! A bit. -/

/-- A blank child made at NEXT and linked on the side of `b` into the cursor's record `r`, with the cursor moved to it
(R140, R142). -/
def growChild (b : Bool) (r : NodeRec P) (s : State P) : State P :=
  descend (s.NEXT.setWidth P.IDX_BITS) { s with
    NODE := cellPut (cellPut s.NODE s.NEXT.toNat blankNode) s.CURB.toNat (withChild b r (s.NEXT.setWidth P.IDX_BITS))
    NEXT := s.NEXT + 1 }

/-- Everything the making of a child can do when it answers (R142). -/
theorem makeChild_eq_ok {b : Bool} {s t : State P} :
    (makeChild b s >>= fun p => Except.ok (descend p.1 p.2)) = .ok t ↔
      s.NEXT.toNat < P.NODE_CAP ∧ ∃ r, nodeRead (cellPut s.NODE s.NEXT.toNat blankNode) s.CURB = .ok r ∧
        t = growChild b r s := by
  constructor
  · intro h
    obtain ⟨⟨c, s2⟩, hmake, h⟩ := op_bind_eq_ok.mp h
    obtain ⟨⟨c', s1⟩, halloc, hmake⟩ := op_bind_eq_ok.mp hmake
    obtain ⟨hcap, rfl, rfl⟩ := alloc_eq_ok.mp halloc
    obtain ⟨r, hr, hmake⟩ := op_bind_eq_ok.mp hmake
    obtain ⟨rfl, rfl⟩ := Prod.mk.inj (Except.ok.inj hmake)
    exact ⟨hcap, r, hr, (Except.ok.inj h).symm⟩
  · rintro ⟨hcap, r, hr, rfl⟩
    exact op_bind_eq_ok.mpr ⟨_, op_bind_eq_ok.mpr ⟨_, alloc_of_lt _ hcap, op_bind_eq_ok.mpr ⟨r, hr, rfl⟩⟩, rfl⟩

/-- Everything a bit can do when it answers: the length test, then by the child on its side (R140). -/
theorem restoreBit_eq_ok {b : Bool} {s t : State P} :
    restoreBit b s = .ok t ↔
      (s.DEPTH.toNat = P.MAX_CODE_LEN ∧ t = raise .fmtBitstring s) ∨
      (s.DEPTH.toNat ≠ P.MAX_CODE_LEN ∧ ∃ r, nodeRead s.NODE s.CURB = .ok r ∧
        let s1 := { s with CF := cfOnDescent s.CF r }
        (childOf b r ≠ NIL ∧ t = descend (childOf b r) s1) ∨
        (childOf b r = NIL ∧ s.NEXT.toNat = P.NODE_CAP ∧ t = raise .fmtBitstring s1) ∨
        (childOf b r = NIL ∧ s.NEXT.toNat < P.NODE_CAP ∧
          ∃ r', nodeRead (cellPut s.NODE s.NEXT.toNat blankNode) s.CURB = .ok r' ∧ t = growChild b r' s1)) := by
  unfold restoreBit
  by_cases hd : s.DEPTH.toNat = P.MAX_CODE_LEN
  · simp [hd, eq_comm]
  rw [if_neg hd, op_bind_eq_ok]
  simp only [hd, false_and, false_or, ne_eq, not_false_eq_true, true_and]
  refine exists_congr fun r => and_congr_right fun _ => ?_
  by_cases hc : childOf b r = NIL
  · by_cases hfull : s.NEXT.toNat = P.NODE_CAP
    · simp [hc, hfull, eq_comm]
    · simp [hc, hfull, makeChild_eq_ok]
  · simp [hc, eq_comm]

section reads
variable {s : State P} {b : Bool} {r : NodeRec P} (hP : P.ok) (hcap : s.NEXT.toNat < P.NODE_CAP)
include hP hcap

/-- The record at NEXT is not one the cursor of a bit-string line is at (R36, R140). -/
theorem new_idx_ne (hne : s.CURB.toNat ≠ s.NEXT.toNat) : s.NEXT.setWidth P.IDX_BITS ≠ s.CURB := fun h =>
  hne (by rw [← h, next_idx_toNat hP hcap])

/-- The new child is blank (R142). -/
theorem nodeRead_growChild_new (hne : s.CURB.toNat ≠ s.NEXT.toNat) :
    nodeRead (growChild b r s).NODE (s.NEXT.setWidth P.IDX_BITS) = .ok blankNode :=
  (nodeRead_put_ne _ (new_idx_ne hP hcap hne)).trans (nodeRead_alloc_new hP _ hcap)

/-- Every record but the parent's and the child's is read as before (R142). -/
theorem nodeRead_growChild_ne {j : Idx P} (hj : j ≠ s.CURB) (hnew : j ≠ s.NEXT.setWidth P.IDX_BITS) :
    nodeRead (growChild b r s).NODE j = nodeRead s.NODE j :=
  (nodeRead_put_ne _ hj).trans (nodeRead_alloc_ne hP _ hcap hnew)

omit hP hcap in
/-- The parent is its record with the link (R142). -/
theorem nodeRead_growChild_parent (h : s.CURB ≠ NIL) :
    nodeRead (growChild b r s).NODE s.CURB = .ok (withChild b r (s.NEXT.setWidth P.IDX_BITS)) :=
  nodeRead_put_same _ h

/-- A bit whose child is absent makes it while there is room (R140, R142). -/
theorem restoreBit_grow (hd : s.DEPTH.toNat ≠ P.MAX_CODE_LEN) (hr : nodeRead s.NODE s.CURB = .ok r)
    (hc : childOf b r = NIL) (hne : s.CURB.toNat ≠ s.NEXT.toNat) :
    restoreBit b s = .ok (growChild b r { s with CF := cfOnDescent s.CF r }) :=
  restoreBit_eq_ok.mpr <| .inr ⟨hd, r, hr, .inr <| .inr
    ⟨hc, hcap, r, (nodeRead_alloc_ne hP _ hcap (new_idx_ne hP hcap hne).symm).trans hr, rfl⟩⟩

end reads

/-- Settles O30: the four outcomes of RESTORE.bit, and what the new child's state reads. -/
theorem bitCharacterDescends : Obligations.BitCharacterDescends := by
  unfold Obligations.BitCharacterDescends
  intro p hp s c cs r hphase hin hr child
  have hexec : exec p.1 s = settle (restoreBit p.2 { s with IN_TEXT := some cs }) :=
    (exec_bitChar hp s).trans (onChar_of_head hphase hin)
  rw [hexec]
  simp only [settle_eq_next]
  refine ⟨fun hd => ?_, fun hd hc => ?_, fun hd hc hfull => ?_, fun hd hc hcap hne => ?_⟩
  · exact restoreBit_eq_ok.mpr (.inl ⟨hd, rfl⟩)
  · exact restoreBit_eq_ok.mpr (.inr ⟨hd, r, hr, .inl ⟨hc, rfl⟩⟩)
  · exact restoreBit_eq_ok.mpr (.inr ⟨hd, r, hr, .inr (.inl ⟨hc, hfull, rfl⟩)⟩)
  · have hnew := next_idx_toNat hw_ok hcap
    have hdepth : (s.DEPTH + 1).toNat = s.DEPTH.toNat + 1 := by
      have hd : s.DEPTH.toNat ≠ 255 := hd
      bv_omega
    exact ⟨_, restoreBit_grow (s := { s with IN_TEXT := some cs }) hw_ok hcap hd hr hc hne, hnew,
      next_add_one_toNat hw_ok hcap, hdepth, rfl, nodeRead_growChild_new (s := s) hw_ok hcap hne,
      nodeRead_growChild_parent (s := s) (nodeRead_ne_nil hr), fun j => nodeRead_growChild_ne (s := s) hw_ok hcap, rfl⟩

/-! The end of a bit-string line. -/

/-- The cursor's record `r` marked as the leaf of RSYM, and the record of the table complete (R143). -/
def assignLeaf (r : NodeRec P) (s : State P) : State P :=
  recordDone { s with
    NODE := cellPut s.NODE s.CURB.toNat { r with SV := true, SYM := s.RSYM }, CF := cfOnAssign s.CF r }

/-- LF on a bit-string line answers exactly when the cursor's record can be read (R143). -/
theorem bitsLf_eq_ok {s t : State P} :
    bitsLf s = .ok t ↔ ∃ r, nodeRead s.NODE s.CURB = .ok r ∧ t = assignLeaf r s := by
  unfold bitsLf
  rw [op_bind_eq_ok]
  exact exists_congr fun r => and_congr_right fun _ => by rw [Except.ok.injEq, eq_comm]; rfl

/-- The flag of a symbol after RSYM is assigned (R143). -/
theorem assigned_assignLeaf (r : NodeRec P) {s : State P} (hsym : s.RSYM.toNat < P.N_SYM) (k : Nat) :
    (assignLeaf r s).ASSIGNED.toList[k]? = if k = s.RSYM.toNat then some true else s.ASSIGNED.toList[k]? := by
  have hset : (assignLeaf r s).ASSIGNED.toList = s.ASSIGNED.toList.set s.RSYM.toNat true :=
    Vector.toList_setIfInBounds ..
  rw [hset]
  split
  · rename_i h
    rw [h, List.getElem?_set_self (by simpa using hsym)]
  · rename_i h
    rw [List.getElem?_set_ne (Ne.symm h)]

/-- Settles O31: the step is RESTORE.bits_lf, which writes the cursor's record and the flag of RSYM. -/
theorem bitLineEnds : Obligations.BitLineEnds := by
  unfold Obligations.BitLineEnds
  intro s c cs r hp hin hr
  have hexec : exec .bitsLf s = settle (bitsLf { s with IN_TEXT := some cs }) := onChar_of_head hp hin
  have hassigned := assigned_assignLeaf r (s := { s with IN_TEXT := some cs }) s.RSYM.isLt
  refine ⟨_, hexec.trans (settle_eq_next.mpr (bitsLf_eq_ok.mpr ⟨r, hr, rfl⟩)), rfl,
    nodeRead_put_same _ (nodeRead_ne_nil hr), fun j hj => nodeRead_put_ne _ hj, ?_, fun k hk => ?_, rfl⟩
  · exact (hassigned _).trans (if_pos rfl)
  · exact (hassigned k).trans (if_neg hk)

/-! The end of the input. -/

/-- With the input exhausted between two characters of a symbol line the step is RESTORE.sym_eof (R137). -/
theorem step_symEof {s s1 : State} (hturn : EngineTurn s s1) (hp : s.PHASE = .rSym) (hin : s.IN_TEXT = some []) :
    step s = settle (symEof s1) :=
  step_engineTurn_internal hturn (k := .symEof) (by simp only [engineWork, hp, hin])

/-- With the input exhausted on a bit-string line the step is RESTORE.bits_eof (R145). -/
theorem step_bitsEof {s s1 : State} (hturn : EngineTurn s s1) (hp : s.PHASE = .rBits) (hin : s.IN_TEXT = some []) :
    step s = .next (bitsEof s1) :=
  step_engineTurn_internal hturn (k := .bitsEof) (by simp only [engineWork, hp, hin])

/-- Settles O32: both engine steps raise their line's fault. -/
theorem inputEndsInsideLine : Obligations.InputEndsInsideLine := by
  unfold Obligations.InputEndsInsideLine
  intro s s1 hturn hin
  refine ⟨fun hp hd => ?_, fun hp => step_bitsEof hturn hp hin⟩
  have hdigits : s1.NDIG = true := by rw [engineTurn_eq hturn]; exact hd
  rw [step_symEof hturn hp hin, symEof, if_pos hdigits, settle_ok]
  rfl

/-- The children of a record are both absent or both present when not exactly one is absent (R148). -/
theorem oneChild_eq_false_iff {r : NodeRec P} : oneChild r = false ↔ (r.L = NIL ↔ r.R = NIL) := by
  by_cases hL : r.L = NIL <;> by_cases hR : r.R = NIL <;> simp [oneChild, hL, hR]

/-- Exactly one child is absent (R148). -/
theorem oneChild_eq_true_iff {r : NodeRec P} :
    oneChild r = true ↔ (r.L = NIL ∧ r.R ≠ NIL) ∨ (r.L ≠ NIL ∧ r.R = NIL) := by
  by_cases hL : r.L = NIL <;> by_cases hR : r.R = NIL <;> simp [oneChild, hL, hR]

/-- The end of a table with records and no conflict is decided by its records with one child (R148). -/
theorem restoreEnd_of_scan {s : State P} (hn : s.NPAIRS ≠ 0) (hcf : s.CF = false) {bad : Bool}
    (hbad : anyOneChild s.NODE s.NEXT.toNat = .ok bad) :
    restoreEnd s = .ok (if bad then raise .fmtIncomplete s else restoreFinish 0 s) := by
  rw [restoreEnd, if_neg hn, hcf, if_neg Bool.false_ne_true]
  exact op_bind_eq_ok.mpr ⟨bad, hbad, rfl⟩

/-- The scan finds nothing in a store without a record of exactly one child (R148). -/
theorem anyOneChild_eq_false {m : Memory P} {n : Nat}
    (h : ∀ i < n, ∃ r, nodeRead m (BitVec.ofNat P.IDX_BITS i) = .ok r ∧ oneChild r = false) :
    anyOneChild m n = .ok false := by
  obtain ⟨bad, hbad⟩ := exists_anyOneChild fun i hi => (h i hi).imp fun _ hr => hr.1
  obtain ⟨-, htrue⟩ := anyOneChild_eq_ok hbad
  cases bad with
  | false => exact hbad
  | true =>
    obtain ⟨i, r, hi, hr, hone⟩ := htrue.mp rfl
    obtain ⟨r', hr', hnone⟩ := h i hi
    obtain rfl := Except.ok.inj (hr.symm.trans hr')
    simp [hone] at hnone

/-- Settles O33: RESTORE.sym_eof without a pending digit is RESTORE.end, whose tests are the statement's. -/
theorem tableEnds : Obligations.TableEnds := by
  unfold Obligations.TableEnds
  intro s s1 hturn hin hp hd
  obtain ⟨sc, rfl⟩ : ∃ sc, s1 = { s with script := sc } := ⟨_, engineTurn_eq hturn⟩
  have hend {t : State} (h : restoreEnd { s with script := sc } = .ok t) : step s = .next t := by
    rw [step_symEof hturn hp hin, symEof, if_neg (by simp [hd]), settle_eq_next]
    exact h
  refine ⟨fun hn => hend (if_pos hn), fun hn hcf => hend ((if_neg hn).trans (if_pos hcf)),
    fun hn hcf hread => ⟨?_, fun hnone => ?_⟩⟩
  · rintro ⟨i, r, hi, hr, hone⟩
    obtain ⟨bad, hbad⟩ := exists_anyOneChild hread
    obtain ⟨-, htrue⟩ := anyOneChild_eq_ok hbad
    obtain rfl := htrue.mpr ⟨i, r, hi, hr, oneChild_eq_true_iff.mpr hone⟩
    exact hend (restoreEnd_of_scan (s := { s with script := sc }) hn hcf hbad)
  · have hscan := anyOneChild_eq_false fun i hi =>
      (hread i hi).imp fun r hr => ⟨hr, oneChild_eq_false_iff.mpr (hnone i r hi hr)⟩
    exact hend (restoreEnd_of_scan (s := { s with script := sc }) hn hcf hscan)

/-! The start, the frame and the faults. -/

/-- Settles O13: RESTORE is accepted in IDLE, and its start is the state the statement writes out. -/
theorem restoreStarts : Obligations.RestoreStarts := by
  unfold Obligations.RestoreStarts
  intro s hp
  exact exec_command_idle (i := .restore) rfl hp

/-- `t` is `s` but for the store, NEXT, RESTORE's registers, the text, CAUSE and PHASE (R39, R133). -/
def CharFrame (s t : State P) : Prop :=
  t = { s with
    NODE := t.NODE, NEXT := t.NEXT, SYMACC := t.SYMACC, NDIG := t.NDIG, RSYM := t.RSYM, CURB := t.CURB
    DEPTH := t.DEPTH, CF := t.CF, ASSIGNED := t.ASSIGNED, NPAIRS := t.NPAIRS, IN_TEXT := t.IN_TEXT
    PHASE := t.PHASE, CAUSE := t.CAUSE }

/-- What a character of a symbol line leaves unchanged (R134 to R136). -/
structure SymLineFrame (s t : State P) : Prop where
  frame : CharFrame s t
  store : t.NODE = s.NODE
  next : t.NEXT = s.NEXT
  conflict : t.CF = s.CF
  assigned : t.ASSIGNED = s.ASSIGNED
  pairs : t.NPAIRS = s.NPAIRS

/-- What a character of a bit-string line leaves unchanged (R140 to R144). -/
structure BitsLineFrame (s t : State P) : Prop where
  frame : CharFrame s t
  symbol : t.RSYM = s.RSYM
  reads : ∀ j : Idx P, j ≠ s.CURB → j.toNat ≠ s.NEXT.toNat → nodeRead t.NODE j = nodeRead s.NODE j

theorem symDigit_frame {d : Nat} {s t : State P} (h : onChar .rSym (symDigit d) s = .next t) : SymLineFrame s t := by
  obtain ⟨-, c, cs, -, h⟩ := onChar_eq_next.mp h
  obtain rfl := Except.ok.inj h
  split <;> exact ⟨rfl, rfl, rfl, rfl, rfl, rfl⟩

theorem symLf_frame {s t : State P} (h : onChar .rSym symLf s = .next t) : SymLineFrame s t := by
  obtain ⟨-, c, cs, -, h⟩ := onChar_eq_next.mp h
  unfold symLf at h
  split at h
  · obtain rfl := Except.ok.inj h
    exact ⟨rfl, rfl, rfl, rfl, rfl, rfl⟩
  · split at h
    · cases h
    · obtain rfl := Except.ok.inj h
      exact ⟨rfl, rfl, rfl, rfl, rfl, rfl⟩
    · obtain rfl := Except.ok.inj h
      exact ⟨rfl, rfl, rfl, rfl, rfl, rfl⟩

theorem restoreBit_frame (hP : P.ok) {b : Bool} {s t : State P} (h : onChar .rBits (restoreBit b) s = .next t) :
    BitsLineFrame s t := by
  obtain ⟨-, c, cs, -, h⟩ := onChar_eq_next.mp h
  obtain ⟨-, rfl⟩ | ⟨-, r, -, ⟨-, rfl⟩ | ⟨-, -, rfl⟩ | ⟨-, hcap, r', -, rfl⟩⟩ := restoreBit_eq_ok.mp h
  · exact ⟨rfl, rfl, fun _ _ _ => rfl⟩
  · exact ⟨rfl, rfl, fun _ _ _ => rfl⟩
  · exact ⟨rfl, rfl, fun _ _ _ => rfl⟩
  · refine ⟨rfl, rfl, fun j hj hnext => nodeRead_growChild_ne (s := { s with IN_TEXT := some cs }) hP hcap hj ?_⟩
    rintro rfl
    exact hnext (next_idx_toNat hP hcap)

/-- The LF of a bit-string line writes no record but the cursor's, and not NEXT (R143). -/
theorem bitsLf_frame {s t : State P} (h : onChar .rBits bitsLf s = .next t) :
    BitsLineFrame s t ∧ t.NEXT = s.NEXT ∧ ∀ j : Idx P, j ≠ s.CURB → nodeRead t.NODE j = nodeRead s.NODE j := by
  obtain ⟨-, c, cs, -, h⟩ := onChar_eq_next.mp h
  obtain ⟨r, -, rfl⟩ := bitsLf_eq_ok.mp h
  have hreads (j : Idx P) (hj : j ≠ s.CURB) :
      nodeRead (assignLeaf r { s with IN_TEXT := some cs }).NODE j = nodeRead s.NODE j := nodeRead_put_ne _ hj
  exact ⟨⟨rfl, rfl, fun j hj _ => hreads j hj⟩, rfl, hreads⟩

theorem exec_symLine_frame {i : Instr} {s t : State} (hi : i.format = .symLine) (h : exec i s = .next t) :
    SymLineFrame s t := by
  cases i with
  | symDigit0 | symDigit1 | symDigit2 | symDigit3 | symDigit4 | symDigit5 | symDigit6 | symDigit7 | symDigit8
  | symDigit9 => exact symDigit_frame h
  | symLf => exact symLf_frame h
  | symOther x =>
    obtain ⟨-, c, cs, -, h⟩ := onChar_eq_next.mp h
    obtain rfl := Except.ok.inj h
    exact ⟨rfl, rfl, rfl, rfl, rfl, rfl⟩
  | _ => cases hi

theorem exec_bitsLine_frame {i : Instr} {s t : State} (hi : i.format = .bitsLine) (h : exec i s = .next t) :
    BitsLineFrame s t := by
  cases i with
  | bits0 | bits1 => exact restoreBit_frame hw_ok h
  | bitsLf =>
    obtain ⟨hframe, -⟩ := bitsLf_frame h
    exact hframe
  | bitsOther x =>
    obtain ⟨-, c, cs, -, h⟩ := onChar_eq_next.mp h
    obtain rfl := Except.ok.inj h
    exact ⟨rfl, rfl, fun _ _ _ => rfl⟩
  | _ => cases hi

/-- Settles O34: each line kind has its frame, and the LF of a bit-string line a narrower one. -/
theorem characterFrame : Obligations.CharacterFrame := by
  unfold Obligations.CharacterFrame
  intro i s t hi h
  rcases hi with hi | hi
  · obtain ⟨hframe, hstore, hnext, hcf, hassigned, hpairs⟩ := exec_symLine_frame hi h
    refine ⟨hframe, fun _ => ⟨hstore, hnext, hcf, hassigned, hpairs⟩, fun hbits => ?_, ?_⟩
    · cases hi.symm.trans hbits
    · rintro rfl
      cases hi
  · obtain ⟨hframe, hsymbol, hreads⟩ := exec_bitsLine_frame hi h
    refine ⟨hframe, fun hsym => ?_, fun _ => ⟨hsymbol, hreads⟩, ?_⟩
    · cases hi.symm.trans hsym
    · rintro rfl
      obtain ⟨-, hlf⟩ := bitsLf_frame h
      exact hlf

/-- A move that goes from RESTORE to FAULT leaves TV as it was (R154). -/
theorem Move.tv_of_restore_fault {s t : State P} (hm : Move s t) (hr : InRestore s) (ht : t.PHASE = .fault) :
    t.TV = s.TV := by
  cases hm with
  | tableEmpty | tableDone => cases ht
  | buildStart hp | restoreStart hp | buildFinish hp => rcases hr with hr | hr <;> cases hp.symm.trans hr
  | _ => rfl

/-- Settles O35: the flags agree before and after the step, and a faulting RESTORE writes neither. -/
theorem faultedRestoreLeavesNoTree : Obligations.FaultedRestoreLeavesNoTree := by
  unfold Obligations.FaultedRestoreLeavesNoTree
  intro s t hflag hr hn h ht
  obtain ⟨o, sc, hm⟩ := step_move hn h
  have ⟨_, hconstruction, _⟩ := hflag
  obtain ⟨-, -, -, hroot⟩ := stepKeepsFlagInv s t hflag h
  have htv : t.TV = false := (hm.tv_of_restore_fault hr ht).trans (hconstruction (.inr hr))
  exact ⟨htv, hroot htv⟩

end Sys2Proof.Machine
end

section
/-! PROOFS. The paths of a tree (R13, R14, R32): which bit-strings lead to a node of it, that these are the ones a code
SERIALIZE writes for it starts with (R166), and how many and how long they are. -/

namespace Sys2Proof.Machine

variable {P : Params}

/-- The tree below the node a bit-string leads to; `none` when it leads out of the tree (R32). -/
def subtreeAt : CodeTree P → List Bool → Option (CodeTree P)
  | t, [] => some t
  | .leaf _, _ :: _ => none
  | .node a b, x :: q => subtreeAt (if x then b else a) q

@[simp] theorem subtreeAt_nil (t : CodeTree P) : subtreeAt t [] = some t := by
  cases t <;> rfl

/-- A bit-string and then another. -/
theorem subtreeAt_append (t : CodeTree P) (q q' : List Bool) :
    subtreeAt t (q ++ q') = (subtreeAt t q).bind (subtreeAt · q') := by
  induction q generalizing t with
  | nil => simp
  | cons x q ih =>
    cases t with
    | leaf y => rfl
    | node a b => exact ih _

/-- The bit-strings that lead one link further are the same on both sides of a node, and there are none at a leaf. -/
theorem subtreeAt_snoc_ne_none {t : CodeTree P} {q : List Bool} {x : Bool} :
    subtreeAt t (q ++ [x]) ≠ none ↔ ∃ a b, subtreeAt t q = some (.node a b) := by
  rw [subtreeAt_append]
  rcases h : subtreeAt t q with _ | _ | ⟨a, b⟩ <;> simp [subtreeAt]

/-- SERIALIZE writes a record for exactly the bit-strings that lead to a leaf, with its symbol (R166). -/
theorem mem_walkTree {t : CodeTree P} {p c : List Bool} {x : Sym P} :
    (x, c) ∈ walkTree t p ↔ ∃ q, c = p ++ q ∧ subtreeAt t q = some (.leaf x) := by
  induction t generalizing p with
  | leaf y =>
    rw [walkTree, List.mem_singleton, Prod.mk.injEq]
    constructor
    · rintro ⟨rfl, rfl⟩
      exact ⟨[], by simp, rfl⟩
    · rintro ⟨_ | ⟨b, q⟩, rfl, h⟩
      · simpa [eq_comm] using h
      · cases h
  | node a b iha ihb =>
    rw [walkTree, List.mem_append, iha, ihb]
    constructor
    · rintro (⟨q, rfl, h⟩ | ⟨q, rfl, h⟩)
      · exact ⟨false :: q, by simp, h⟩
      · exact ⟨true :: q, by simp, h⟩
    · rintro ⟨_ | ⟨_ | _, q⟩, rfl, h⟩
      · cases h
      · exact .inl ⟨q, by simp, h⟩
      · exact .inr ⟨q, by simp, h⟩

/-- Every tree has a leaf. -/
theorem exists_subtreeAt_leaf (t : CodeTree P) : ∃ q x, subtreeAt t q = some (.leaf x) := by
  induction t with
  | leaf x => exact ⟨[], x, rfl⟩
  | node a b iha ihb =>
    obtain ⟨q, x, h⟩ := iha
    exact ⟨false :: q, x, h⟩

/-- The bit-strings that lead to a node are the prefixes of the codes (R14, R166). -/
theorem subtreeAt_ne_none_iff {t : CodeTree P} {q : List Bool} :
    subtreeAt t q ≠ none ↔ ∃ r ∈ walkTree t [], q <+: r.2 := by
  constructor
  · intro h
    obtain ⟨u, hu⟩ := Option.ne_none_iff_exists'.mp h
    obtain ⟨q', x, hx⟩ := exists_subtreeAt_leaf u
    refine ⟨(x, q ++ q'), mem_walkTree.mpr ⟨q ++ q', rfl, ?_⟩, List.prefix_append ..⟩
    rw [subtreeAt_append, hu, Option.bind_some, hx]
  · rintro ⟨⟨x, c⟩, hr, q', hc⟩ hnone
    obtain ⟨_, rfl, hleaf⟩ := mem_walkTree.mp hr
    obtain rfl : q ++ q' = c := hc
    simp [subtreeAt_append, hnone] at hleaf

/-! How long and how many they are. -/

theorem length_leavesOf_pos (t : CodeTree P) : 0 < (leavesOf t).length := by
  induction t with
  | leaf x => exact Nat.one_pos
  | node a b iha ihb =>
    rw [leavesOf, List.length_append]
    omega

/-- A path is shorter than the number of leaves (R170). -/
theorem length_lt_of_subtreeAt {t : CodeTree P} {q : List Bool} (h : subtreeAt t q ≠ none) :
    q.length < (leavesOf t).length := by
  induction t generalizing q with
  | leaf x =>
    cases q with
    | nil => exact Nat.one_pos
    | cons b q => exact absurd rfl h
  | node a b iha ihb =>
    have ha := length_leavesOf_pos a
    have hb := length_leavesOf_pos b
    rw [leavesOf, List.length_append]
    rcases q with _ | ⟨_ | _, q⟩
    · exact Nat.add_pos_left ha _
    · have := iha h
      rw [List.length_cons]
      omega
    · have := ihb h
      rw [List.length_cons]
      omega

/-- The bit-strings that lead to the nodes of a tree. -/
def nodePaths : CodeTree P → List (List Bool)
  | .leaf _ => [[]]
  | .node a b => [] :: ((nodePaths a).map (false :: ·) ++ (nodePaths b).map (true :: ·))

theorem mem_nodePaths {t : CodeTree P} {q : List Bool} (h : subtreeAt t q ≠ none) : q ∈ nodePaths t := by
  induction t generalizing q with
  | leaf x =>
    cases q with
    | nil => exact List.mem_singleton_self _
    | cons b q => exact absurd rfl h
  | node a b iha ihb =>
    rcases q with _ | ⟨_ | _, q⟩
    · exact List.mem_cons_self
    · exact List.mem_cons_of_mem _ (List.mem_append_left _ (List.mem_map_of_mem (iha h)))
    · exact List.mem_cons_of_mem _ (List.mem_append_right _ (List.mem_map_of_mem (ihb h)))

/-- A tree has one node less than twice its leaves (R117). -/
theorem length_nodePaths (t : CodeTree P) : (nodePaths t).length + 1 = 2 * (leavesOf t).length := by
  induction t with
  | leaf x => rfl
  | node a b iha ihb =>
    rw [nodePaths, leavesOf, List.length_cons, List.length_append, List.length_map, List.length_map,
      List.length_append]
    omega

end Sys2Proof.Machine
end

section
/-! PROOFS. The store of a RESTORE as a set of paths (R32, R142, R143). `made` lists the bit-strings that lead to a
record, in the order in which the records were made, so that a path's place in the list is the index of its record. -/

namespace Sys2Proof.Machine

variable {P : Params}

/-! The index of a path. -/

/-- The index of the record a path leads to; `NIL` when there is none. -/
def pathIdx (made : List (List Bool)) (q : List Bool) : Idx P :=
  if q ∈ made then BitVec.ofNat P.IDX_BITS (made.idxOf q) else NIL

theorem pathIdx_toNat (hP : P.ok) {made : List (List Bool)} (hcap : made.length ≤ P.NODE_CAP) {q : List Bool}
    (hq : q ∈ made) : (pathIdx made q : Idx P).toNat = made.idxOf q := by
  have hlt := List.idxOf_lt_length_of_mem hq
  obtain ⟨-, -, -, -, -, -, hidx, -⟩ := hP
  rw [pathIdx, if_pos hq, BitVec.toNat_ofNat, Nat.mod_eq_of_lt (by omega)]

theorem pathIdx_lt (hP : P.ok) {made : List (List Bool)} (hcap : made.length ≤ P.NODE_CAP) {q : List Bool}
    (hq : q ∈ made) : (pathIdx made q : Idx P).toNat < made.length :=
  pathIdx_toNat hP hcap hq ▸ List.idxOf_lt_length_of_mem hq

theorem pathIdx_eq_nil_iff (hP : P.ok) {made : List (List Bool)} (hcap : made.length ≤ P.NODE_CAP) {q : List Bool} :
    (pathIdx made q : Idx P) = NIL ↔ q ∉ made := by
  refine ⟨fun h hq => ?_, fun h => if_neg h⟩
  exact ne_nil_of_lt_cap hP ((pathIdx_lt hP hcap hq).trans_le hcap) h

/-- Different paths lead to different records (R35). -/
theorem pathIdx_inj (hP : P.ok) {made : List (List Bool)} (hcap : made.length ≤ P.NODE_CAP) {q q' : List Bool}
    (hq : q ∈ made) (hq' : q' ∈ made) (h : (pathIdx made q : Idx P) = pathIdx made q') : q = q' := by
  have hnat := congrArg BitVec.toNat h
  rw [pathIdx_toNat hP hcap hq, pathIdx_toNat hP hcap hq'] at hnat
  exact (List.idxOf_inj hq).mp hnat

/-- A path made last leaves the others where they were. -/
theorem pathIdx_append_of_ne {made : List (List Bool)} {q q' : List Bool} (h : q ≠ q') :
    (pathIdx (made ++ [q']) q : Idx P) = pathIdx made q := by
  by_cases hq : q ∈ made
  · rw [pathIdx, pathIdx, if_pos hq, if_pos (List.mem_append_left _ hq), List.idxOf_append_of_mem hq]
  · have hq' : q ∉ made ++ [q'] := by simp [hq, h]
    rw [pathIdx, pathIdx, if_neg hq, if_neg hq']

/-- A path made last leads to the record made last. -/
theorem pathIdx_append_self {made : List (List Bool)} {q : List Bool} (h : q ∉ made) :
    (pathIdx (made ++ [q]) q : Idx P) = BitVec.ofNat P.IDX_BITS made.length := by
  rw [pathIdx, if_pos (by simp), List.idxOf_append_of_notMem h]
  simp

/-! The records. -/

/-- What the record of the path `q` holds: the links to the paths one bit longer, and the symbol of `q` where a record
of the table has assigned it (R142, R143). -/
structure RecordAt (made : List (List Bool)) (done : List (Sym P × List Bool)) (q : List Bool) (r : NodeRec P) :
    Prop where
  child : ∀ b, childOf b r = pathIdx made (q ++ [b])
  assigned : r.SV = true ↔ q ∈ done.map Prod.snd
  symbol : ∀ x, (x, q) ∈ done → r.SYM = x

/-- The store holds a record for each path of `made`, and these are the paths to the codes of the records of the table
done so far and to the place `p` of the cursor. -/
structure HoldsPaths (m : Memory P) (made : List (List Bool)) (done : List (Sym P × List Bool)) (p : List Bool) :
    Prop where
  nodup : made.Nodup
  cap : made.length ≤ P.NODE_CAP
  head : made.head? = some []
  spans : ∀ q, q ∈ made ↔ ∃ c ∈ p :: done.map Prod.snd, q <+: c
  record : ∀ q ∈ made, ∃ r, nodeRead m (pathIdx made q) = .ok r ∧ RecordAt made done q r

theorem blankNode_childOf (b : Bool) : childOf b (blankNode : NodeRec P) = NIL := by
  cases b <;> rfl

theorem childOf_withChild_not (b : Bool) (r : NodeRec P) (c : Idx P) :
    childOf (!b) (withChild b r c) = childOf (!b) r := by
  cases b <;> rfl

theorem withChild_SYM (b : Bool) (r : NodeRec P) (c : Idx P) : (withChild b r c).SYM = r.SYM := by
  cases b <;> rfl

namespace RecordAt

variable {made : List (List Bool)} {done : List (Sym P × List Bool)} {p q : List Bool} {b : Bool} {r : NodeRec P}

/-- The record of the parent of a new path gains the link (R142). -/
theorem withChild (h : RecordAt made done p r) {c : Idx P} (hc : pathIdx (made ++ [p ++ [b]]) (p ++ [b]) = c) :
    RecordAt (made ++ [p ++ [b]]) done p (withChild b r c) := by
  refine ⟨fun x => ?_, by rw [withChild_SV]; exact h.assigned, by rw [withChild_SYM]; exact h.symbol⟩
  by_cases hx : x = b
  · rw [hx, childOf_withChild, hc]
  · obtain rfl : x = !b := Bool.eq_not.mpr hx
    rw [childOf_withChild_not, h.child, pathIdx_append_of_ne (by simp)]

/-- Every other record is as before (R142). -/
theorem append (h : RecordAt made done q r) (hq : q ≠ p) : RecordAt (made ++ [p ++ [b]]) done q r :=
  { h with child := fun x => by rw [h.child, pathIdx_append_of_ne (by simp [hq])] }

/-- The record of a new path is blank: no path goes further, and it is no code (R142). -/
theorem blank (hfar : ∀ x, q ++ [x] ∉ made) (hcode : q ∉ done.map Prod.snd) :
    RecordAt (made ++ [q]) done q blankNode := by
  refine ⟨fun x => ?_, by simp [blankNode, hcode], fun x hx => absurd (List.mem_map_of_mem (f := Prod.snd) hx) hcode⟩
  rw [blankNode_childOf, pathIdx_append_of_ne (by simp), pathIdx, if_neg (hfar x)]

/-- The record assigned holds the symbol, where no symbol was assigned to it before (R143). -/
theorem assign (h : RecordAt made done p r) (hfree : p ∉ done.map Prod.snd) (x : Sym P) :
    RecordAt made (done ++ [(x, p)]) p { r with SV := true, SYM := x } := by
  refine ⟨h.child, by simp, fun y hy => ?_⟩
  rcases List.mem_append.mp hy with hy | hy
  · exact absurd (List.mem_map_of_mem (f := Prod.snd) hy) hfree
  · exact (Prod.mk.inj (List.mem_singleton.mp hy)).1.symm

/-- A record of the table leaves the records of the other paths as they are (R143). -/
theorem of_ne (h : RecordAt made done q r) (hq : q ≠ p) (x : Sym P) : RecordAt made (done ++ [(x, p)]) q r :=
  ⟨h.child, by simp [h.assigned, hq], fun y hy => h.symbol y (by simpa [hq] using hy)⟩

end RecordAt

namespace HoldsPaths

variable {m : Memory P} {made : List (List Bool)} {done : List (Sym P × List Bool)} {p : List Bool}

/-- The placeholder root alone is the store of the empty path (R131, R132). -/
theorem blank (hP : P.ok) : HoldsPaths [(0, (blankNode : NodeRec P))] [[]] [] [] := by
  have hcap : [([] : List Bool)].length ≤ P.NODE_CAP := by
    obtain ⟨hn, -, -, -, hnode, -⟩ := hP
    rw [List.length_singleton]
    omega
  refine ⟨List.nodup_singleton _, hcap, rfl, fun q => by simp, fun q hq => ?_⟩
  obtain rfl := List.mem_singleton.mp hq
  have hread : nodeRead [(0, (blankNode : NodeRec P))] (pathIdx [[]] []) = .ok blankNode := by
    refine nodeRead_eq_ok.mpr ⟨fun h => (pathIdx_eq_nil_iff hP hcap).mp h hq, ?_⟩
    rw [pathIdx_toNat hP hcap hq]
    rfl
  exact ⟨blankNode, hread, .blank (made := []) (by simp) (by simp)⟩

/-- The empty path leads to node 0 (R132). -/
theorem pathIdx_root (h : HoldsPaths m made done p) : (pathIdx made [] : Idx P) = 0 := by
  obtain ⟨tail, htail⟩ := List.head?_eq_some_iff.mp h.head
  rw [pathIdx, if_pos (by simp [htail]), htail, List.idxOf_cons_self]
  rfl

theorem cursor_mem (h : HoldsPaths m made done p) : p ∈ made :=
  (h.spans p).mpr ⟨p, List.mem_cons_self, List.prefix_rfl⟩

/-- The paths on the way to a path are made. -/
theorem mem_of_prefix (h : HoldsPaths m made done p) {q q' : List Bool} (hq : q' ∈ made) (hpre : q <+: q') :
    q ∈ made := by
  obtain ⟨c, hc, hq'⟩ := (h.spans q').mp hq
  exact (h.spans q).mpr ⟨c, hc, hpre.trans hq'⟩

/-- With the cursor one link further the paths are those on the way to it besides. -/
theorem spans_snoc (h : HoldsPaths m made done p) (b : Bool) (q : List Bool) :
    (∃ c ∈ (p ++ [b]) :: done.map Prod.snd, q <+: c) ↔ q = p ++ [b] ∨ q ∈ made := by
  rw [h.spans]
  simp only [List.mem_cons, or_and_right, exists_or, exists_eq_left, List.prefix_concat_iff, or_assoc]

/-- The cursor moves down a link that is there (R140). -/
theorem down (h : HoldsPaths m made done p) {b : Bool} (hb : p ++ [b] ∈ made) :
    HoldsPaths m made done (p ++ [b]) :=
  { h with
    spans := fun q => by
      rw [h.spans_snoc]
      exact ⟨.inr, fun hq => hq.elim (· ▸ hb) id⟩ }

/-- A path that is made leads to no `NIL`. -/
theorem pathIdx_ne_nil (hP : P.ok) (h : HoldsPaths m made done p) {q : List Bool} (hq : q ∈ made) :
    (pathIdx made q : Idx P) ≠ NIL := fun e => (pathIdx_eq_nil_iff hP h.cap).mp e hq

/-- A path other than the cursor's leads to another record. -/
theorem pathIdx_ne_cursor (hP : P.ok) (h : HoldsPaths m made done p) {q : List Bool} (hq : q ∈ made) (hqp : q ≠ p) :
    (pathIdx made q : Idx P) ≠ pathIdx made p := fun e => hqp (pathIdx_inj hP h.cap hq h.cursor_mem e)

/-- A path not made is no code of the table so far. -/
theorem not_code (h : HoldsPaths m made done p) {q : List Bool} (hq : q ∉ made) : q ∉ done.map Prod.snd := fun hd =>
  hq ((h.spans q).mpr ⟨q, List.mem_cons_of_mem _ hd, List.prefix_rfl⟩)

/-- The cursor moves down a link it makes (R142): the parent's record gains the link, and the child is blank. -/
theorem grow (hP : P.ok) {s : State P} (h : HoldsPaths s.NODE made done p) {b : Bool} (hb : p ++ [b] ∉ made)
    (hnext : s.NEXT.toNat = made.length) (hcap : made.length < P.NODE_CAP) (hcurb : s.CURB = pathIdx made p)
    {r : NodeRec P} (hr : RecordAt made done p r) :
    HoldsPaths (growChild b r s).NODE (made ++ [p ++ [b]]) done (p ++ [b]) := by
  have hroom : s.NEXT.toNat < P.NODE_CAP := hnext ▸ hcap
  have hnew : pathIdx (made ++ [p ++ [b]]) (p ++ [b]) = s.NEXT.setWidth P.IDX_BITS := by
    rw [pathIdx_append_self hb, ← hnext, BitVec.ofNat_toNat]
  have hold {q : List Bool} (hq : q ∈ made) : (pathIdx (made ++ [p ++ [b]]) q : Idx P) = pathIdx made q :=
    pathIdx_append_of_ne fun e => hb (e ▸ hq)
  have hlt {q : List Bool} (hq : q ∈ made) : (pathIdx made q : Idx P).toNat < s.NEXT.toNat :=
    hnext ▸ pathIdx_lt hP h.cap hq
  refine ⟨?_, ?_, ?_, fun q => ?_, fun q hq => ?_⟩
  · exact h.nodup.append (List.nodup_singleton _) (by simpa using hb)
  · rw [List.length_append]
    exact hcap
  · rw [List.head?_append, h.head]
    rfl
  · rw [h.spans_snoc, List.mem_append, List.mem_singleton, or_comm]
  rcases List.mem_append.mp hq with hmade | hlast
  · rw [hold hmade]
    by_cases hqp : q = p
    · subst hqp
      rw [← hcurb]
      exact ⟨_, nodeRead_growChild_parent (hcurb ▸ h.pathIdx_ne_nil hP hmade), hr.withChild hnew⟩
    · obtain ⟨r', hr', hrec⟩ := h.record q hmade
      have hne : (pathIdx made q : Idx P) ≠ s.NEXT.setWidth P.IDX_BITS := fun e => by
        have := hlt hmade
        rw [e, next_idx_toNat hP hroom] at this
        exact Nat.lt_irrefl _ this
      refine ⟨r', ?_, hrec.append hqp⟩
      rw [nodeRead_growChild_ne hP hroom (hcurb ▸ h.pathIdx_ne_cursor hP hmade hqp) hne, hr']
  · obtain rfl := List.mem_singleton.mp hlast
    have hfar (x : Bool) : p ++ [b] ++ [x] ∉ made := fun hm => hb (h.mem_of_prefix hm (List.prefix_append ..))
    rw [hnew]
    exact ⟨_, nodeRead_growChild_new hP hroom (hcurb ▸ Nat.ne_of_lt (hlt h.cursor_mem)), .blank hfar (h.not_code hb)⟩

/-- Before a record of the table the cursor is at the root, which is on the way to every path. -/
theorem spans_done (h : HoldsPaths m made done p) (x : Sym P) (q : List Bool) :
    (∃ c ∈ [] :: (done ++ [(x, p)]).map Prod.snd, q <+: c) ↔ q ∈ made := by
  rw [h.spans]
  simp only [List.map_append, List.map_cons, List.map_nil, List.mem_cons, List.mem_append, List.not_mem_nil, or_false]
  constructor
  · rintro ⟨c, rfl | hc | rfl, hq⟩
    · exact ⟨p, .inl rfl, hq.trans List.nil_prefix⟩
    · exact ⟨c, .inr hc, hq⟩
    · exact ⟨c, .inl rfl, hq⟩
  · rintro ⟨c, rfl | hc, hq⟩
    · exact ⟨c, .inr (.inr rfl), hq⟩
    · exact ⟨c, .inr (.inl hc), hq⟩

/-- The record of the cursor becomes the leaf of a symbol, and the cursor goes back to the root (R135, R143). -/
theorem assign (hP : P.ok) (h : HoldsPaths m made done p) {r : NodeRec P} (hr : RecordAt made done p r) (x : Sym P)
    (hfree : p ∉ done.map Prod.snd) :
    HoldsPaths (cellPut m (pathIdx made p : Idx P).toNat { r with SV := true, SYM := x }) made (done ++ [(x, p)])
      [] := by
  refine ⟨h.nodup, h.cap, h.head, fun q => (h.spans_done x q).symm, fun q hq => ?_⟩
  by_cases hqp : q = p
  · subst hqp
    exact ⟨_, nodeRead_put_same _ (h.pathIdx_ne_nil hP hq), hr.assign hfree x⟩
  · obtain ⟨r', hr', hrec⟩ := h.record q hq
    exact ⟨r', (nodeRead_put_ne _ (h.pathIdx_ne_cursor hP hq hqp)).trans hr', hrec.of_ne hqp x⟩

end HoldsPaths

end Sys2Proof.Machine
end

section
/-! PROOFS. A RESTORE without a fault (R134 to R143, R149): the tables RESTORE accepts, and the states it goes through
on one. A symbol line leaves its number in SYMACC, each bit moves the cursor one link down the path read so far, and
an LF marks the node reached. -/

namespace Sys2Proof.Machine

variable {P : Params}

/-! The tables RESTORE accepts. -/

/-- Records with different symbols of the alphabet are no more than it has symbols (R8, R139). -/
theorem length_le_of_symbols {T : List (Sym P × List Bool)} (hnodup : (T.map Prod.fst).Nodup)
    (hmem : ∀ r ∈ T, r.1.toNat < P.N_SYM) : T.length ≤ P.N_SYM := by
  have hsyms : ((T.map Prod.fst).map BitVec.toNat).Nodup := hnodup.map fun _ _ => BitVec.eq_of_toNat_eq
  have hrange : (T.map Prod.fst).map BitVec.toNat ⊆ List.range P.N_SYM := fun n hn => by
    rw [List.map_map] at hn
    obtain ⟨r, hr, rfl⟩ := List.mem_map.mp hn
    exact List.mem_range.mpr (hmem r hr)
  simpa using (hsyms.subperm hrange).length_le

/-- A table whose records RESTORE takes without a fault: different symbols of the alphabet, codes none of which another
starts with, short enough, and with no more paths than there are records (R139, R140, R149, R153). -/
structure TableOk (T : List (Sym P × List Bool)) : Prop where
  symbols : (T.map Prod.fst).Nodup
  members : ∀ r ∈ T, r.1.toNat < P.N_SYM
  apart : T.Pairwise (fun r r' => ¬ r.2 <+: r'.2 ∧ ¬ r'.2 <+: r.2)
  short : ∀ r ∈ T, r.2.length ≤ P.MAX_CODE_LEN
  room : ∀ made : List (List Bool), made.Nodup → (∀ q ∈ made, ∃ r ∈ T, q <+: r.2) → made.length ≤ P.NODE_CAP

namespace TableOk

variable {done todo : List (Sym P × List Bool)} {x : Sym P} {c : List Bool}

/-- The symbol of the next record is not yet assigned (R139). -/
theorem fresh (h : TableOk (done ++ (x, c) :: todo)) : x ∉ done.map Prod.fst := fun hx => by
  have hnodup := h.symbols
  rw [List.map_append, List.nodup_append] at hnodup
  obtain ⟨-, -, hdiff⟩ := hnodup
  exact hdiff x hx x (by simp) rfl

/-- No code before and the next one start one with the other. -/
theorem apart_done (h : TableOk (done ++ (x, c) :: todo)) {d : List Bool} (hd : d ∈ done.map Prod.snd) :
    ¬ d <+: c ∧ ¬ c <+: d := by
  obtain ⟨r, hr, rfl⟩ := List.mem_map.mp hd
  obtain ⟨-, -, hdone⟩ := List.pairwise_append.mp h.apart
  exact hdone r hr (x, c) List.mem_cons_self

/-- No code before leads to the way to the next one (R149). -/
theorem not_code_of_prefix (h : TableOk (done ++ (x, c) :: todo)) {p : List Bool} (hp : p <+: c) :
    p ∉ done.map Prod.snd := fun hd => by
  obtain ⟨hstart, -⟩ := h.apart_done hd
  exact hstart hp

/-- While a path of the next code is still to be made, the store has room for it (R153). -/
theorem room_of_not_mem (h : TableOk (done ++ (x, c) :: todo)) {m : Memory P} {made : List (List Bool)}
    {p : List Bool} (hm : HoldsPaths m made done p) {b : Bool} (hb : p ++ [b] ∉ made) (hc : p ++ [b] <+: c) :
    made.length < P.NODE_CAP := by
  have hnodup : (made ++ [p ++ [b]]).Nodup :=
    hm.nodup.append (List.nodup_singleton _) (by simpa using hb)
  have hnext : (x, c) ∈ done ++ (x, c) :: todo := by simp
  have hlen := h.room _ hnodup fun q hq => by
    rcases List.mem_append.mp hq with hq | hq
    · obtain ⟨d, hd, hqd⟩ := (hm.spans q).mp hq
      rcases List.mem_cons.mp hd with rfl | hd
      · exact ⟨_, hnext, hqd.trans ((List.prefix_append ..).trans hc)⟩
      · obtain ⟨r, hr, rfl⟩ := List.mem_map.mp hd
        exact ⟨r, List.mem_append_left _ hr, hqd⟩
    · obtain rfl := List.mem_singleton.mp hq
      exact ⟨_, hnext, hc⟩
  rw [List.length_append] at hlen
  exact hlen

end TableOk

/-! The states of a RESTORE without a fault. -/

/-- The records `done` of the table are complete, with no conflict, and the paths to their codes and to `p` are made. -/
structure Restoring (made : List (List Bool)) (done : List (Sym P × List Bool)) (p : List Bool) (s : State P) :
    Prop where
  store : HoldsPaths s.NODE made done p
  next : s.NEXT.toNat = made.length
  conflict : s.CF = false
  assigned : ∀ x : Sym P, x.toNat < P.N_SYM →
    s.ASSIGNED.toList[x.toNat]? = some (decide (x ∈ done.map Prod.fst))
  pairs : s.NPAIRS.toNat = done.length

/-- Between two records. -/
structure Between (made : List (List Bool)) (done : List (Sym P × List Bool)) (s : State P) : Prop
    extends Restoring made done [] s where
  phase : s.PHASE = .rSym
  acc : s.SYMACC = 0
  digits : s.NDIG = false

/-- On the bit-string line of the symbol `x`, with the cursor at the end of `p`. -/
structure OnPath (made : List (List Bool)) (done : List (Sym P × List Bool)) (x : Sym P) (p : List Bool) (s : State P) :
    Prop extends Restoring made done p s where
  phase : s.PHASE = .rBits
  symbol : s.RSYM = x
  cursor : s.CURB = pathIdx made p
  depth : s.DEPTH.toNat = p.length

/-- The engine has every turn, `text` is left to read, and CAUSE is `f`. -/
structure Reads (f : Cause) (text : List Byte) (s : State P) : Prop where
  script : s.script = []
  input : s.IN_TEXT = some text
  cause : s.CAUSE = f

/-- A register that is not at its greatest value counts up without wrapping (R10). -/
theorem add_one_toNat {w : Nat} {n : BitVec w} (h : n.toNat + 1 < 2 ^ w) : (n + 1).toNat = n.toNat + 1 := by
  have hmod : 1 % 2 ^ w = 1 := Nat.mod_eq_of_lt (by omega)
  have hone : (1 : BitVec w).toNat = 1 := (BitVec.toNat_ofNat 1 w).trans hmod
  rw [BitVec.toNat_add, hone, Nat.mod_eq_of_lt h]

/-- A record with no child on either side is a leaf (R31). -/
theorem isLeaf_of_childOf_eq_nil {r : NodeRec P} (h : ∀ b, childOf b r = NIL) : isLeaf r = true := by
  have hL : r.L = NIL := h false
  have hR : r.R = NIL := h true
  simp [isLeaf, hL, hR]

section ops
variable {made : List (List Bool)} {done todo : List (Sym P × List Bool)} {x : Sym P} {p : List Bool} {s : State P}

/-- The start of a RESTORE is the state before the first record (R131, R132). -/
theorem between_restoreStart (hP : P.ok) (s : State P) : Between [[]] [] (commandStart .restore s) where
  store := .blank hP
  next := by simp [commandStart, restoreClear]
  conflict := rfl
  assigned := fun x hx => by
    simp [commandStart, restoreClear, hx]
  pairs := by simp [commandStart, restoreClear]
  phase := rfl
  acc := rfl
  digits := rfl

/-- The state with the number `n` read on a symbol line and `text` left to read (R134). -/
def accumulated (n : Nat) (text : List Byte) (s : State P) : State P :=
  { s with IN_TEXT := some text, SYMACC := BitVec.ofNat (P.SYM_BITS + 4) n, NDIG := true }

/-- A number of the alphabet fits the accumulator. -/
theorem acc_toNat (hP : P.ok) {n : Nat} (hn : n < P.N_SYM) : (BitVec.ofNat (P.SYM_BITS + 4) n).toNat = n := by
  have hsym := n_sym_le hP
  have hpow : 2 ^ P.SYM_BITS ≤ 2 ^ (P.SYM_BITS + 4) := Nat.pow_le_pow_right (by decide) (Nat.le_add_right ..)
  exact Nat.mod_eq_of_lt (by omega)

/-- A digit within the alphabet (R134). -/
theorem symDigit_of_lt (hP : P.ok) {n : Nat} (hacc : s.SYMACC = BitVec.ofNat (P.SYM_BITS + 4) n) {d : Nat} (hd : d < 10)
    (hlt : n * 10 + d < P.N_SYM) (text : List Byte) :
    symDigit d { s with IN_TEXT := some text } = .ok (accumulated (n * 10 + d) text s) := by
  have hn : n < P.N_SYM := by omega
  have hnat := accumulate_toNat hP (acc_toNat hP hn ▸ hn) hd
  rw [acc_toNat hP hn] at hnat
  have hbits : BitVec.ofNat (P.SYM_BITS + 4) n * 10 + BitVec.ofNat (P.SYM_BITS + 4) d =
      BitVec.ofNat (P.SYM_BITS + 4) (n * 10 + d) := by
    rw [← hnat, BitVec.ofNat_toNat, BitVec.setWidth_eq]
  simp only [symDigit, hacc, hbits, acc_toNat hP hlt, if_neg (Nat.not_le_of_lt hlt)]
  rfl

/-- The end of the symbol line of a symbol not yet assigned (R135). -/
theorem Between.symLf (hP : P.ok) (h : Between made done s) (hx : x.toNat < P.N_SYM) (hfresh : x ∉ done.map Prod.fst)
    (text : List Byte) :
    let s1 := accumulated x.toNat text s
    Machine.symLf s1 = .ok (symAccept s1) ∧ OnPath made done x [] (symAccept s1) := by
  intro s1
  have hacc : s1.SYMACC.toNat = x.toNat := acc_toNat hP hx
  have hfree : s1.ASSIGNED.toList[s1.SYMACC.toNat]? = some false := by
    rw [hacc]
    exact (h.assigned x hx).trans (by simp [hfresh])
  refine ⟨by simp only [Machine.symLf, hfree]; rfl, ?_⟩
  exact { h.toRestoring with
    phase := rfl
    symbol := BitVec.eq_of_toNat_eq (by
      rw [symAccept, BitVec.toNat_setWidth, hacc, Nat.mod_eq_of_lt x.isLt])
    cursor := h.store.pathIdx_root.symm
    depth := by simp [symAccept] }

/-- With a bit of a code still to come the cursor is not yet at the greatest depth (R140). -/
theorem OnPath.depth_lt (h : OnPath made done x p s) {b : Bool} {bits : List Bool}
    (hT : TableOk (done ++ (x, p ++ b :: bits) :: todo)) : s.DEPTH.toNat < P.MAX_CODE_LEN := by
  have hshort := hT.short (x, p ++ b :: bits) (by simp)
  rw [List.length_append, List.length_cons] at hshort
  rw [h.depth]
  omega

theorem OnPath.depth_snoc (hP : P.ok) (h : OnPath made done x p s) (hd : s.DEPTH.toNat < P.MAX_CODE_LEN) (b : Bool) :
    (s.DEPTH + 1).toNat = (p ++ [b]).length := by
  have hsym := n_sym_le hP
  obtain ⟨-, -, -, -, -, -, -, hmax, -⟩ := hP
  rw [add_one_toNat (by omega), h.depth, List.length_append, List.length_singleton]

/-- Stepping out of a node that is not assigned sees no conflict (R141). -/
theorem OnPath.cfOnDescent_eq_false (h : OnPath made done x p s) {r : NodeRec P} (hrec : RecordAt made done p r)
    (hfree : p ∉ done.map Prod.snd) : cfOnDescent s.CF r = false := by
  have hsv : r.SV = false := by rwa [Bool.eq_false_iff, ne_eq, hrec.assigned]
  rw [cfOnDescent, h.conflict, hsv]
  rfl

/-- The cursor one link down a path that is there (R140). -/
theorem OnPath.descend (hP : P.ok) (h : OnPath made done x p s) (hd : s.DEPTH.toNat < P.MAX_CODE_LEN) {r : NodeRec P}
    (hrec : RecordAt made done p r) (hfree : p ∉ done.map Prod.snd) {b : Bool} (hb : p ++ [b] ∈ made) :
    OnPath made done x (p ++ [b]) (descend (childOf b r) { s with CF := cfOnDescent s.CF r }) :=
  { h with
    store := h.store.down hb
    conflict := h.cfOnDescent_eq_false hrec hfree
    cursor := hrec.child b
    depth := h.depth_snoc hP hd b }

/-- The cursor one link down a path just made (R140, R142). -/
theorem OnPath.growChild (hP : P.ok) (h : OnPath made done x p s) (hd : s.DEPTH.toNat < P.MAX_CODE_LEN) {r : NodeRec P}
    (hrec : RecordAt made done p r) (hfree : p ∉ done.map Prod.snd) {b : Bool} (hb : p ++ [b] ∉ made)
    (hcap : made.length < P.NODE_CAP) :
    OnPath (made ++ [p ++ [b]]) done x (p ++ [b]) (growChild b r { s with CF := cfOnDescent s.CF r }) := by
  have hnext : (s.NEXT + 1).toNat = (made ++ [p ++ [b]]).length := by
    rw [next_add_one_toNat hP (h.next ▸ hcap), h.next, List.length_append, List.length_singleton]
  have hnew : s.NEXT.setWidth P.IDX_BITS = pathIdx (made ++ [p ++ [b]]) (p ++ [b]) := by
    rw [pathIdx_append_self hb, ← h.next, BitVec.ofNat_toNat]
  exact { h with
    store := HoldsPaths.grow (s := { s with CF := cfOnDescent s.CF r }) hP h.store hb h.next hcap h.cursor hrec
    next := hnext
    conflict := h.cfOnDescent_eq_false hrec hfree
    cursor := hnew
    depth := h.depth_snoc hP hd b }

/-- A bit of a code moves the cursor one link down its path, making the record where there is none (R140, R142). -/
theorem OnPath.exists_restoreBit (hP : P.ok) (h : OnPath made done x p s) {b : Bool} {bits : List Bool}
    (hT : TableOk (done ++ (x, p ++ b :: bits) :: todo)) :
    ∃ made' t, restoreBit b s = .ok t ∧ OnPath made' done x (p ++ [b]) t ∧
      t.IN_TEXT = s.IN_TEXT ∧ t.script = s.script ∧ t.CAUSE = s.CAUSE := by
  have hlt := h.depth_lt hT
  have hd := Nat.ne_of_lt hlt
  have hfree : p ∉ done.map Prod.snd := hT.not_code_of_prefix (List.prefix_append ..)
  obtain ⟨r, hr, hrec⟩ := h.store.record p h.store.cursor_mem
  rw [← h.cursor] at hr
  by_cases hb : p ++ [b] ∈ made
  · have hc : childOf b r ≠ NIL := by
      rw [hrec.child]
      exact h.store.pathIdx_ne_nil hP hb
    exact ⟨made, _, restoreBit_eq_ok.mpr (.inr ⟨hd, r, hr, .inl ⟨hc, rfl⟩⟩), h.descend hP hlt hrec hfree hb, rfl, rfl,
      rfl⟩
  · have hcap := hT.room_of_not_mem h.store hb ⟨bits, by simp⟩
    have hc : childOf b r = NIL := by rw [hrec.child, (pathIdx_eq_nil_iff hP h.store.cap).mpr hb]
    have hne : s.CURB.toNat ≠ s.NEXT.toNat := by
      rw [h.cursor, h.next]
      exact Nat.ne_of_lt (pathIdx_lt hP h.store.cap h.store.cursor_mem)
    exact ⟨_, _, restoreBit_grow hP (h.next ▸ hcap) hd hr hc hne, h.growChild hP hlt hrec hfree hb hcap, rfl, rfl, rfl⟩

/-- No path leads on from the end of a code (R149). -/
theorem OnPath.isLeaf_cursor (hP : P.ok) (h : OnPath made done x p s) (hT : TableOk (done ++ (x, p) :: todo))
    {r : NodeRec P} (hrec : RecordAt made done p r) : isLeaf r = true := by
  have hend (b : Bool) : childOf b r = NIL := by
    rw [hrec.child, pathIdx_eq_nil_iff hP h.store.cap, h.store.spans]
    rintro ⟨d, hd, hpre⟩
    rcases List.mem_cons.mp hd with rfl | hd
    · simpa using hpre.length_le
    · obtain ⟨-, hstart⟩ := hT.apart_done hd
      exact hstart ((List.prefix_append ..).trans hpre)
  exact isLeaf_of_childOf_eq_nil hend

/-- NPAIRS counts a further record of the table without wrapping (R10, R39). -/
theorem OnPath.pairs_add_one (hP : P.ok) (h : OnPath made done x p s) (hT : TableOk (done ++ (x, p) :: todo)) :
    (s.NPAIRS + 1).toNat = (done ++ [(x, p)]).length := by
  have hlen := length_le_of_symbols hT.symbols hT.members
  have hsym := n_sym_le hP
  obtain ⟨-, -, -, -, -, hidx, -⟩ := hP
  have hpow : 2 ^ P.IDX_BITS = 2 * 2 ^ P.SYM_BITS := by rw [hidx, Nat.pow_succ']
  rw [List.length_append, List.length_cons, ← h.pairs] at hlen
  rw [add_one_toNat (by omega), h.pairs, List.length_append, List.length_singleton]

/-- The end of a code marks the node reached as the leaf of its symbol (R143). -/
theorem OnPath.exists_bitsLf (hP : P.ok) (h : OnPath made done x p s) (hT : TableOk (done ++ (x, p) :: todo)) :
    ∃ t, bitsLf s = .ok t ∧ Between made (done ++ [(x, p)]) t ∧
      t.IN_TEXT = s.IN_TEXT ∧ t.script = s.script ∧ t.CAUSE = s.CAUSE := by
  obtain ⟨r, hr, hrec⟩ := h.store.record p h.store.cursor_mem
  have hfree := hT.not_code_of_prefix List.prefix_rfl
  have hsv : r.SV = false := by rwa [Bool.eq_false_iff, ne_eq, hrec.assigned]
  have hleaf := h.isLeaf_cursor hP hT hrec
  have hx : x.toNat < P.N_SYM := hT.members (x, p) (by simp)
  have hstore := h.store.assign hP hrec x hfree
  rw [← h.cursor] at hr hstore
  have hpairs := h.pairs_add_one hP hT
  refine ⟨_, bitsLf_eq_ok.mpr ⟨r, hr, rfl⟩, ?_, rfl, rfl, rfl⟩
  refine { store := ?_, next := h.next, conflict := ?_, assigned := fun y hy => ?_, pairs := hpairs
           phase := rfl, acc := rfl, digits := rfl }
  · obtain rfl := h.symbol
    exact hstore
  · simp [assignLeaf, recordDone, cfOnAssign, h.conflict, hsv, hleaf]
  · rw [assigned_assignLeaf r (h.symbol ▸ hx), h.symbol, h.assigned y hy]
    by_cases hyx : y = x
    · simp [hyx]
    · simp [hyx, BitVec.toNat_inj]

end ops

end Sys2Proof.Machine
end

section
/-! PROOFS. RESTORE inverts the text of a tree (R152, R156, R172). A table that RESTORE accepts is read in one step for
each character, and where the table is a tree's the paths the store then holds are the tree's. -/

namespace Sys2Proof.Machine

variable {P : Params}

/-! The text, character by character. -/

section runs
variable {made : List (List Bool)} {done todo : List (Sym × List Bool)} {x : Sym} {p : List Bool} {f : Cause}
  {text : List Byte} {s : State}

/-- A character of a symbol line is decoded as one of its class and runs (R93, R133). -/
theorem step_symChar (hscript : s.script = []) (hp : s.PHASE = .rSym) {c : Byte} (hin : s.IN_TEXT = some (c :: text)) :
    step s = exec (decodeSymChar c) s :=
  step_engineTurn (.inl ⟨hscript, rfl⟩) (by simp only [engineWork, hp, hin])

/-- A character of a bit-string line is decoded as one of its class and runs (R93, R133). -/
theorem step_bitsChar (hscript : s.script = []) (hp : s.PHASE = .rBits) {c : Byte}
    (hin : s.IN_TEXT = some (c :: text)) : step s = exec (decodeBitsChar c) s :=
  step_engineTurn (.inl ⟨hscript, rfl⟩) (by simp only [engineWork, hp, hin])

theorem decodeSymChar_digit : ∀ d < 10, (decodeSymChar (BitVec.ofNat 8 (0x30 + d)), d) ∈ digitInstrs := by decide

theorem decodeBitsChar_bitChar (b : Bool) : (decodeBitsChar (bitChar b), b) ∈ bitCharInstrs := by
  cases b <;> decide

/-- An LF on a symbol line as a step (R135). -/
theorem step_symLf (hscript : s.script = []) (hp : s.PHASE = .rSym) (hin : s.IN_TEXT = some (0x0A#8 :: text)) :
    step s = settle (symLf { s with IN_TEXT := some text }) :=
  (step_symChar hscript hp hin).trans (onChar_of_head (k := symLf) hp hin)

/-- A bit as a step (R140). -/
theorem step_bit (hscript : s.script = []) (hp : s.PHASE = .rBits) {b : Bool}
    (hin : s.IN_TEXT = some (bitChar b :: text)) :
    step s = settle (restoreBit b { s with IN_TEXT := some text }) := by
  rw [step_bitsChar hscript hp hin, exec_bitChar (decodeBitsChar_bitChar b), onChar_of_head hp hin]

/-- An LF on a bit-string line as a step (R143). -/
theorem step_bitsLf (hscript : s.script = []) (hp : s.PHASE = .rBits) (hin : s.IN_TEXT = some (0x0A#8 :: text)) :
    step s = settle (bitsLf { s with IN_TEXT := some text }) :=
  (step_bitsChar hscript hp hin).trans (onChar_of_head (k := bitsLf) hp hin)

/-- A digit within the alphabet as a step (R134). -/
theorem step_digit (hscript : s.script = []) (hp : s.PHASE = .rSym) {n : Nat}
    (hacc : s.SYMACC = BitVec.ofNat (hw.SYM_BITS + 4) n) {d : Nat} (hd : d < 10)
    (hin : s.IN_TEXT = some (BitVec.ofNat 8 (0x30 + d) :: text)) (hlt : n * 10 + d < hw.N_SYM) :
    step s = .next (accumulated (n * 10 + d) text s) := by
  obtain ⟨hexec, -⟩ := exec_digit (decodeSymChar_digit d hd) s
  rw [step_symChar hscript hp hin, hexec, onChar_of_head hp hin, symDigit_of_lt hw_ok hacc hd hlt, settle_ok]

/-- The digits of a number of the alphabet leave it in SYMACC (R91, R134). -/
theorem runsTo_digits (hscript : s.script = []) (hp : s.PHASE = .rSym) (hacc : s.SYMACC = 0) {fuel n : Nat}
    (hfuel : n < fuel) (hn : n < hw.N_SYM) (hin : s.IN_TEXT = some (decFuel fuel n ++ text)) :
    RunsTo (decFuel fuel n).length s (accumulated n text s) := by
  induction fuel generalizing n text with
  | zero => exact absurd hfuel (Nat.not_lt_zero n)
  | succ fuel ih =>
    by_cases hten : n < 10
    · simp only [decFuel, if_pos hten] at hin ⊢
      have hstep := step_digit hscript hp (n := 0) hacc hten hin (by omega)
      rw [Nat.zero_mul, Nat.zero_add] at hstep
      exact runsTo_succ.mpr ⟨_, hstep, rfl⟩
    · simp only [decFuel, if_neg hten, List.append_assoc, List.length_append] at hin ⊢
      have hfirst := ih (n := n / 10) (by omega) (by omega) hin
      have hdiv : n / 10 * 10 + n % 10 = n := Nat.div_add_mod' n 10
      have hlast := step_digit (s := accumulated (n / 10) _ s) (text := text) hscript hp rfl (Nat.mod_lt n (by decide))
        rfl (by rw [hdiv]; exact hn)
      rw [hdiv] at hlast
      exact runsTo_add hfirst (runsTo_succ.mpr ⟨_, hlast, rfl⟩)

/-- A symbol line is read (R91, R134, R135). -/
theorem Between.exists_run_symLine (h : Between made done s) (hfresh : x ∉ done.map Prod.fst)
    (hr : Reads f (dec x ++ 0x0A#8 :: text) s) :
    ∃ t, RunsTo ((dec x).length + 1) s t ∧ OnPath made done x [] t ∧ Reads f text t := by
  have hdigits := runsTo_digits hr.script h.phase h.acc (Nat.lt_succ_self x.toNat) x.isLt hr.input
  obtain ⟨hlf, hpath⟩ := h.symLf hw_ok x.isLt hfresh text
  have hstep := step_symLf (s := accumulated x.toNat (0x0A#8 :: text) s) hr.script h.phase rfl
  exact ⟨_, runsTo_add hdigits (runsTo_succ.mpr ⟨_, hstep.trans (settle_eq_next.mpr hlf), rfl⟩), hpath,
    ⟨hr.script, rfl, hr.cause⟩⟩

/-- The bits of a code are read (R92, R140). -/
theorem OnPath.exists_run_bits {bits : List Bool} (h : OnPath made done x p s)
    (hT : TableOk (done ++ (x, p ++ bits) :: todo)) (hr : Reads f (bits.map bitChar ++ text) s) :
    ∃ made' t, RunsTo bits.length s t ∧ OnPath made' done x (p ++ bits) t ∧ Reads f text t := by
  induction bits generalizing made p s with
  | nil => exact ⟨made, s, rfl, by rwa [List.append_nil], hr⟩
  | cons b bits ih =>
    have h0 : OnPath made done x p { s with IN_TEXT := some (bits.map bitChar ++ text) } := { h with }
    obtain ⟨made1, t1, hbit, h1, hin, hscript, hcause⟩ := h0.exists_restoreBit hw_ok hT
    have hassoc : p ++ b :: bits = p ++ [b] ++ bits := by simp
    rw [hassoc] at hT ⊢
    obtain ⟨made', t, hrun, ht, hr'⟩ := ih h1 hT ⟨hscript.trans hr.script, hin, hcause.trans hr.cause⟩
    have hstep := (step_bit hr.script h.phase hr.input).trans (settle_eq_next.mpr hbit)
    exact ⟨made', t, runsTo_succ.mpr ⟨t1, hstep, hrun⟩, ht, hr'⟩

/-- The LF of a bit-string line is read (R143). -/
theorem OnPath.exists_step_bitsLf (h : OnPath made done x p s) (hT : TableOk (done ++ (x, p) :: todo))
    (hr : Reads f (0x0A#8 :: text) s) :
    ∃ t, step s = .next t ∧ Between made (done ++ [(x, p)]) t ∧ Reads f text t := by
  have h0 : OnPath made done x p { s with IN_TEXT := some text } := { h with }
  obtain ⟨t, hlf, ht, hin, hscript, hcause⟩ := h0.exists_bitsLf hw_ok hT
  have hstep := (step_bitsLf hr.script h.phase hr.input).trans (settle_eq_next.mpr hlf)
  exact ⟨t, hstep, ht, ⟨hscript.trans hr.script, hin, hcause.trans hr.cause⟩⟩

/-- A record of the table is read (R94). -/
theorem Between.exists_run_record {c : List Bool} (h : Between made done s) (hT : TableOk (done ++ (x, c) :: todo))
    (hr : Reads f (recordText x c ++ text) s) :
    ∃ made' t, RunsTo (recordText x c).length s t ∧ Between made' (done ++ [(x, c)]) t ∧ Reads f text t := by
  have htext : recordText x c ++ text = dec x ++ 0x0A#8 :: (c.map bitChar ++ 0x0A#8 :: text) := by simp [recordText]
  rw [htext] at hr
  obtain ⟨t1, hrun1, h1, hr1⟩ := h.exists_run_symLine hT.fresh hr
  obtain ⟨made', t2, hrun2, h2, hr2⟩ := h1.exists_run_bits (bits := c) hT hr1
  obtain ⟨t, hstep, ht, hr'⟩ := h2.exists_step_bitsLf hT hr2
  refine ⟨made', t, ?_, ht, hr'⟩
  have hlen : (recordText x c).length = (dec x).length + 1 + (c.length + 1) := by
    simp only [recordText, List.length_append, List.length_cons, List.length_nil, List.length_map]
    omega
  rw [hlen]
  exact runsTo_add hrun1 (runsTo_add hrun2 (runsTo_succ.mpr ⟨t, hstep, rfl⟩))

/-- A table is read in one step for each character (R156). -/
theorem Between.exists_run_table (h : Between made done s) (hT : TableOk (done ++ todo))
    (hr : Reads f (textOf todo) s) :
    ∃ made' t, RunsTo (textOf todo).length s t ∧ Between made' (done ++ todo) t ∧ Reads f [] t := by
  induction todo generalizing made done s with
  | nil => exact ⟨made, s, rfl, by rwa [List.append_nil], hr⟩
  | cons r todo ih =>
    have htext : textOf (r :: todo) = recordText r.1 r.2 ++ textOf todo := rfl
    rw [htext] at hr ⊢
    obtain ⟨made1, t1, hrun1, h1, hr1⟩ := h.exists_run_record hT hr
    rw [List.append_cons] at hT ⊢
    obtain ⟨made', t, hrun, ht, hr'⟩ := ih h1 hT hr1
    rw [List.length_append]
    exact ⟨made', t, runsTo_add hrun1 hrun, ht, hr'⟩

end runs

/-! The table of a tree. -/

/-- A table with no record. -/
theorem tableOk_nil : TableOk ([] : List (Sym P × List Bool)) := by
  refine ⟨.nil, nofun, .nil, nofun, fun made _ hpre => ?_⟩
  cases made with
  | nil => exact Nat.zero_le _
  | cons q made =>
    obtain ⟨r, hr, -⟩ := hpre q List.mem_cons_self
    cases hr

theorem length_walkTree (t : CodeTree P) (p : List Bool) : (walkTree t p).length = (leavesOf t).length := by
  rw [← map_fst_walkTree t p, List.length_map]

/-- SERIALIZE's table of a tree with different symbols is one RESTORE accepts (R153, R170). -/
theorem tableOk_walkTree (hP : P.ok) {t : CodeTree P} (hnodup : ((walkTree t []).map Prod.fst).Nodup)
    (hmem : ∀ r ∈ walkTree t [], r.1.toNat < P.N_SYM) : TableOk (walkTree t []) := by
  have hleaves := length_le_of_symbols hnodup hmem
  rw [length_walkTree] at hleaves
  obtain ⟨-, -, -, -, hnode, -, -, hmax, -⟩ := hP
  refine ⟨hnodup, hmem, walkTree_prefixFree t [], fun r hr => ?_, fun made hmade hpre => ?_⟩
  · have := length_lt_of_subtreeAt (subtreeAt_ne_none_iff.mpr ⟨r, hr, List.prefix_rfl⟩)
    omega
  · have hpaths : made ⊆ nodePaths t := fun q hq => mem_nodePaths (subtreeAt_ne_none_iff.mpr (hpre q hq))
    have hle := (hmade.subperm hpaths).length_le
    have hlen := length_nodePaths t
    omega

section tree
variable {made : List (List Bool)} {t : CodeTree P} {m : Memory P}

/-- The paths made for a tree's table lead to its nodes. -/
theorem HoldsPaths.mem_iff_subtreeAt (h : HoldsPaths m made (walkTree t []) []) {q : List Bool} :
    q ∈ made ↔ subtreeAt t q ≠ none := by
  rw [h.spans, subtreeAt_ne_none_iff]
  constructor
  · rintro ⟨c, hc, hq⟩
    rcases List.mem_cons.mp hc with rfl | hc
    · obtain rfl := List.prefix_nil.mp hq
      exact subtreeAt_ne_none_iff.mp (by simp)
    · obtain ⟨r, hr, rfl⟩ := List.mem_map.mp hc
      exact ⟨r, hr, hq⟩
  · rintro ⟨r, hr, hq⟩
    exact ⟨r.2, List.mem_cons_of_mem _ (List.mem_map_of_mem hr), hq⟩

/-- The links of a record lead on exactly where the tree has children (R148). -/
theorem HoldsPaths.childOf_eq_nil_iff (hP : P.ok) (h : HoldsPaths m made (walkTree t []) []) {q : List Bool}
    {r : NodeRec P} (hr : RecordAt made (walkTree t []) q r) (b : Bool) :
    childOf b r = NIL ↔ ¬ ∃ x y, subtreeAt t q = some (.node x y) := by
  rw [hr.child, pathIdx_eq_nil_iff hP h.cap, h.mem_iff_subtreeAt, subtreeAt_snoc_ne_none]

/-- The store holds the subtree at the end of every path (R13). -/
theorem HoldsPaths.treeAt_pathIdx (hP : P.ok) (h : HoldsPaths m made (walkTree t []) []) {u : CodeTree P}
    {q : List Bool} (hq : subtreeAt t q = some u) : treeAt m u (pathIdx made q) := by
  induction u generalizing q with
  | leaf x =>
    obtain ⟨r, hr, hrec⟩ := h.record q (h.mem_iff_subtreeAt.mpr (by simp [hq]))
    have hend (b : Bool) : childOf b r = NIL := (h.childOf_eq_nil_iff hP hrec b).mpr (by simp [hq])
    exact ⟨r, hr, isLeaf_of_childOf_eq_nil hend, hrec.symbol x (mem_walkTree.mpr ⟨q, rfl, hq⟩)⟩
  | node a b iha ihb =>
    obtain ⟨r, hr, hrec⟩ := h.record q (h.mem_iff_subtreeAt.mpr (by simp [hq]))
    have hinner : r.L ≠ NIL := fun e => (h.childOf_eq_nil_iff hP hrec false).mp e ⟨a, b, hq⟩
    have hleft := iha (q := q ++ [false]) (by rw [subtreeAt_append, hq]; rfl)
    have hright := ihb (q := q ++ [true]) (by rw [subtreeAt_append, hq]; rfl)
    rw [← hrec.child] at hleft hright
    exact ⟨r, hr, by simp [isLeaf, hinner], hleft, hright⟩

/-- No record of a tree has exactly one child (R148). -/
theorem HoldsPaths.anyOneChild_false (hP : P.ok) (h : HoldsPaths m made (walkTree t []) []) :
    anyOneChild m made.length = .ok false := by
  refine anyOneChild_eq_false fun i hi => ?_
  have hmem : made[i] ∈ made := List.getElem_mem hi
  obtain ⟨r, hr, hrec⟩ := h.record made[i] hmem
  rw [pathIdx, if_pos hmem, h.nodup.idxOf_getElem] at hr
  exact ⟨r, hr, oneChild_eq_false_iff.mpr
    ((h.childOf_eq_nil_iff hP hrec false).trans (h.childOf_eq_nil_iff hP hrec true).symm)⟩

end tree

/-- RESTORE ends with a root that stands for the tree whose table it has read (R137, R148). -/
theorem Between.exists_step_end {made : List (List Bool)} {a : AnyTree} {s : State} {f : Cause}
    (h : Between made (serTree a) s) (hr : Reads f [] s) :
    ∃ t, step s = .next t ∧ t.PHASE = .idle ∧ t.TV = true ∧ t.CAUSE = f ∧ treeOf t.NODE a t.ROOT := by
  have hstep {t : State} (hend : restoreEnd s = .ok t) : step s = .next t := by
    rw [step_symEof (.inl ⟨hr.script, rfl⟩) h.phase hr.input, symEof, h.digits, if_neg Bool.false_ne_true, hend,
      settle_ok]
  cases a with
  | none =>
    have hn : s.NPAIRS = 0 := BitVec.eq_of_toNat_eq h.pairs
    exact ⟨_, hstep (if_pos hn), rfl, rfl, hr.cause, rfl⟩
  | some u =>
    have hn : s.NPAIRS ≠ 0 := fun e => by
      have hpairs := h.pairs
      rw [serTree, length_walkTree, e] at hpairs
      exact absurd hpairs (Nat.ne_of_lt (length_leavesOf_pos u))
    have hscan : anyOneChild s.NODE s.NEXT.toNat = .ok false := by
      rw [h.next]
      exact HoldsPaths.anyOneChild_false hw_ok h.store
    refine ⟨_, hstep (restoreEnd_of_scan hn h.conflict hscan), rfl, rfl, hr.cause, ?_⟩
    have htree := HoldsPaths.treeAt_pathIdx hw_ok h.store (subtreeAt_nil u)
    rwa [h.store.pathIdx_root] at htree

/-- Settles O36: the start is the state before the first record, each record of the table is read in one step for each
character, and the paths the store then holds are the tree's. -/
theorem restoreInvertsSerialize : Obligations.RestoreInvertsSerialize := by
  unfold Obligations.RestoreInvertsSerialize
  intro s a hp hscript htext hnodup
  have hT : TableOk ([] ++ serTree a) := by
    cases a with
    | none => exact tableOk_nil
    | some u => exact tableOk_walkTree hw_ok hnodup fun r _ => r.1.isLt
  have hreads : Reads s.CAUSE (textOf (serTree a)) (commandStart .restore s) := ⟨hscript, congrArg some htext, rfl⟩
  obtain ⟨made, t1, hrun, h1, hr1⟩ := (between_restoreStart hw_ok s).exists_run_table hT hreads
  obtain ⟨t, hstep, hphase, htv, hcause, htree⟩ := Between.exists_step_end h1 hr1
  rw [htext]
  exact ⟨_, t, exec_command_idle rfl hp, runsTo_add hrun (runsTo_succ.mpr ⟨t, hstep, rfl⟩), hphase, htv, hcause, htree⟩

end Sys2Proof.Machine
end

section
/-! PROOFS. SERIALIZE's steps (R161 to R165): what its start and a step of its walk do, for any parameters of R8, and
these as steps of this hardware; the spelling of a symbol. -/

namespace Sys2Proof.Machine

variable {P : Params}

/-! The spelling of a symbol (R163). -/

/-- More divisions than a number needs change nothing in its digits. -/
theorem decFuel_eq_of_lt {fuel fuel' n : Nat} (h : n < fuel) (h' : n < fuel') : decFuel fuel n = decFuel fuel' n := by
  induction fuel generalizing fuel' n with
  | zero => exact absurd h (Nat.not_lt_zero n)
  | succ fuel ih =>
    obtain ⟨fuel', rfl⟩ : ∃ k, fuel' = k + 1 := ⟨fuel' - 1, by omega⟩
    simp only [decFuel]
    split
    · rfl
    · rw [ih (n := n / 10) (fuel' := fuel') (by omega) (by omega)]

/-- Settles O40: the digits come by the rule's division, and the quotient is a symbol with digits of its own. -/
theorem symbolSpelling : Obligations.SymbolSpelling := by
  unfold Obligations.SymbolSpelling
  intro P x
  split
  · simp only [dec, decFuel, if_pos ‹_›]
  · have hx := x.isLt
    have hquot : (BitVec.ofNat P.SYM_BITS (x.toNat / 10)).toNat = x.toNat / 10 := by
      rw [BitVec.toNat_ofNat, Nat.mod_eq_of_lt (by omega)]
    rw [dec, decFuel, if_neg ‹_›, dec, hquot, decFuel_eq_of_lt (n := x.toNat / 10) (by omega) (Nat.lt_succ_self _)]

/-! The start (R161). -/

/-- In IDLE with a tree SERIALIZE is accepted and starts (R85, R161). -/
theorem exec_serialize {s : State} (hp : s.PHASE = .idle) (htv : s.TV = true) :
    exec .serialize s = .next (serializeStart s) :=
  (exec_command_idle rfl hp).trans (congrArg _ (if_pos htv))

/-- Settles O14: the start writes SP, LEN, PHASE and, where there is a root, its entry. -/
theorem serializeStarts : Obligations.SerializeStarts := by
  unfold Obligations.SerializeStarts
  intro s hp htv
  have hframe := serializeStart_frame s
  refine ⟨_, exec_serialize hp htv, congrArg Any.State.LEN hframe, congrArg Any.State.PHASE hframe, ?_,
    fun hroot => ?_, fun hroot => ?_⟩
  · rw [hframe]
  · exact ⟨by rw [serializeStart_SP, if_pos hroot], by rw [serializeStart_STACK, if_pos hroot]⟩
  · exact ⟨by rw [serializeStart_SP, if_neg hroot], stackAt_serializeStart_zero hroot,
      fun k hk => stackAt_serializeStart_of_ne (.inr hk)⟩

/-! The pop (R162). -/

@[simp] theorem popEntry_SP (e : StackEntry P) (s : State P) : (popEntry e s).SP = s.SP - 1 := by rw [popEntry_frame]
@[simp] theorem popEntry_LEN (e : StackEntry P) (s : State P) : (popEntry e s).LEN = e.d := by rw [popEntry_frame]
@[simp] theorem popEntry_NODE (e : StackEntry P) (s : State P) : (popEntry e s).NODE = s.NODE := by rw [popEntry_frame]
@[simp] theorem popEntry_STACK (e : StackEntry P) (s : State P) : (popEntry e s).STACK = s.STACK := by
  rw [popEntry_frame]
@[simp] theorem popEntry_OUT_TEXT (e : StackEntry P) (s : State P) : (popEntry e s).OUT_TEXT = s.OUT_TEXT := by
  rw [popEntry_frame]
@[simp] theorem popEntry_OUT_PAIRS (e : StackEntry P) (s : State P) : (popEntry e s).OUT_PAIRS = s.OUT_PAIRS := by
  rw [popEntry_frame]

theorem popEntry_PATH (e : StackEntry P) (s : State P) :
    (popEntry e s).PATH = if e.d = 0 then s.PATH else s.PATH.setIfInBounds (e.d.toNat - 1) e.b := by
  unfold popEntry
  split <;> rfl

/-! A step of the walk (R162). -/

theorem isLeaf_iff {r : NodeRec P} : isLeaf r = true ↔ r.L = NIL ∧ r.R = NIL := by simp [isLeaf]

/-- The walk pops the top entry, then emits the record of its node or pushes the node's children (R162). -/
theorem serializeWalk_of_top {s : State P} {e : StackEntry P} {r : NodeRec P} (hsp : s.SP ≠ 0)
    (he : stackAt s (s.SP.toNat - 1) = .ok e) (hr : nodeRead s.NODE e.n = .ok r) :
    serializeWalk s =
      if isLeaf r then .ok (emitRecord r.SYM (pathBits (popEntry e s)) (popEntry e s))
      else pushChildren r e.d (popEntry e s) := by
  have hread : nodeAt (popEntry e s) e.n = .ok r := by rwa [nodeAt, popEntry_NODE]
  simp only [serializeWalk, if_neg hsp, he, hread, bind, Except.bind]

/-- At a leaf the walk pops its entry and emits its record (R162, R163). -/
theorem serializeWalk_leaf {s : State P} {e : StackEntry P} {r : NodeRec P} (hsp : s.SP ≠ 0)
    (he : stackAt s (s.SP.toNat - 1) = .ok e) (hr : nodeRead s.NODE e.n = .ok r) (hl : isLeaf r = true) :
    serializeWalk s = .ok (emitRecord r.SYM (pathBits (popEntry e s)) (popEntry e s)) := by
  rw [serializeWalk_of_top hsp he hr, if_pos hl]

/-- The state after a step at a node with children: its entry is popped and theirs are on the stack (R162, R164). -/
def visitInner (e : StackEntry P) (r : NodeRec P) (s : State P) : State P :=
  { popEntry e s with
    STACK := cellPut (cellPut s.STACK (s.SP.toNat - 1) { n := r.R, d := e.d + 1, b := true }) s.SP.toNat
      { n := r.L, d := e.d + 1, b := false }
    SP := s.SP - 1 + 2 }

theorem visitInner_frame (e : StackEntry P) (r : NodeRec P) (s : State P) :
    visitInner e r s = { s with
      STACK := (visitInner e r s).STACK, SP := (visitInner e r s).SP, LEN := e.d, PATH := (popEntry e s).PATH } := by
  rw [visitInner, popEntry_frame]

/-- At a node with children the walk pops its entry and pushes theirs (R162, R164). -/
theorem serializeWalk_inner {s : State P} {e : StackEntry P} {r : NodeRec P} (hsp : s.SP ≠ 0)
    (he : stackAt s (s.SP.toNat - 1) = .ok e) (hr : nodeRead s.NODE e.n = .ok r) (hl : isLeaf r = false)
    (hcap : s.SP.toNat < P.STACK_CAP) (hd : e.d.toNat < P.MAX_CODE_LEN) :
    serializeWalk s = .ok (visitInner e r s) := by
  have hsub : (s.SP - 1).toNat = s.SP.toNat - 1 := sub_one_toNat hsp
  have hpos := toNat_pos_of_ne_zero hsp
  rw [serializeWalk_of_top hsp he hr, if_neg (by simp [hl])]
  refine pushChildren_eq_ok.mpr ⟨Nat.ne_of_lt hd, by rw [popEntry_SP]; omega, ?_⟩
  simp only [visitInner, popEntry_SP, popEntry_STACK, hsub, Nat.sub_add_cancel hpos]

theorem visitInner_SP_toNat (hP : P.ok) {s : State P} (hsp : s.SP ≠ 0) (hcap : s.SP.toNat < P.STACK_CAP)
    (e : StackEntry P) (r : NodeRec P) : (visitInner e r s).SP.toNat = s.SP.toNat + 1 := by
  have hsub : (s.SP - 1).toNat = s.SP.toNat - 1 := sub_one_toNat hsp
  have hpos := toNat_pos_of_ne_zero hsp
  have hadd : (s.SP - 1 + 2).toNat = (s.SP - 1).toNat + 2 := sp_add_toNat hP (k := 2) (by omega)
  exact hadd.trans (by omega)

/-- The right child takes the place of the popped entry. -/
theorem stackAt_visitInner_right {s : State P} (hsp : s.SP ≠ 0) (e : StackEntry P) (r : NodeRec P) :
    stackAt (visitInner e r s) (s.SP.toNat - 1) = .ok { n := r.R, d := e.d + 1, b := true } := by
  have hpos := toNat_pos_of_ne_zero hsp
  rw [stackAt_eq_ok, visitInner, cellGet_cellPut_ne _ _ (by omega), cellGet_cellPut_same]

/-- The left child is on top. -/
theorem stackAt_visitInner_left (e : StackEntry P) (r : NodeRec P) (s : State P) :
    stackAt (visitInner e r s) s.SP.toNat = .ok { n := r.L, d := e.d + 1, b := false } := by
  rw [stackAt_eq_ok, visitInner, cellGet_cellPut_same]

theorem stackAt_visitInner_of_ne (e : StackEntry P) (r : NodeRec P) {s : State P} {k : Nat}
    (hk : k ≠ s.SP.toNat - 1) (hk' : k ≠ s.SP.toNat) : stackAt (visitInner e r s) k = stackAt s k := by
  simp only [stackAt, visitInner, cellGet_cellPut_ne _ _ hk', cellGet_cellPut_ne _ _ hk]

/-! As steps. -/

theorem step_sWalk {s s1 t : State} (hturn : EngineTurn s s1) (hp : s.PHASE = .sWalk) (h : serializeWalk s1 = .ok t) :
    step s = .next t := by
  rw [step_engineTurn_internal hturn (k := .serializeWalk) (by simp only [engineWork, hp]), runInternal, h, settle_ok]

/-- Settles O39: with SP 0 the step is the walk's end. -/
theorem walkEndsOnEmptyStack : Obligations.WalkEndsOnEmptyStack := by
  unfold Obligations.WalkEndsOnEmptyStack
  intro s s1 hturn hp hsp
  refine step_sWalk hturn hp (if_pos ?_)
  rwa [engineTurn_eq hturn]

/-- Settles O37: the step pops the leaf's entry and emits its record with the path written up to its depth. -/
theorem walkEmitsLeaf : Obligations.WalkEmitsLeaf := by
  unfold Obligations.WalkEmitsLeaf
  intro s s1 e r hturn hp hsp he hr hL hR path code
  obtain ⟨sc, rfl⟩ : ∃ sc, s1 = { s with script := sc } := ⟨_, engineTurn_eq hturn⟩
  rw [step_sWalk hturn hp (serializeWalk_leaf (s := { s with script := sc }) hsp he hr (isLeaf_iff.mpr ⟨hL, hR⟩))]
  have hpath : (popEntry e { s with script := sc }).PATH = path := popEntry_PATH e _
  have hcode : pathBits (popEntry e { s with script := sc }) = code := by rw [pathBits, hpath, popEntry_LEN]
  rw [hcode, popEntry_frame, hpath]
  rfl

/-- Settles O38: the step pops the node's entry and pushes its children's. -/
theorem walkPushesChildren : Obligations.WalkPushesChildren := by
  unfold Obligations.WalkPushesChildren
  intro s s1 e r hturn hp hsp hcap he hr hl hd
  obtain ⟨sc, rfl⟩ : ∃ sc, s1 = { s with script := sc } := ⟨_, engineTurn_eq hturn⟩
  have hinner : isLeaf r = false := Bool.eq_false_iff.mpr fun h => hl (isLeaf_iff.mp h)
  have hwalk := serializeWalk_inner (s := { s with script := sc }) hsp he hr hinner hcap hd
  have hframe := visitInner_frame e r { s with script := sc }
  refine ⟨_, step_sWalk hturn hp hwalk, visitInner_SP_toNat hw_ok hsp hcap e r, congrArg Any.State.LEN hframe,
    stackAt_visitInner_right hsp e r, stackAt_visitInner_left e r _, fun k => stackAt_visitInner_of_ne e r,
    (congrArg Any.State.PATH hframe).trans (popEntry_PATH e _), ?_⟩
  rw [hframe]

end Sys2Proof.Machine
end

section
/-! PROOFS. SERIALIZE computes `ser` (R166, R167, R170): the walk from an entry on top of the stack visits exactly the
tree its node stands for, by induction on that tree. -/

namespace Sys2Proof.Machine

variable {P : Params}

/-! The path (R162). -/

/-- The pop writes no bit above the popped entry's own. -/
theorem take_PATH_popEntry (e : StackEntry P) (s : State P) :
    (popEntry e s).PATH.toList.take (e.d.toNat - 1) = s.PATH.toList.take (e.d.toNat - 1) := by
  rw [popEntry_PATH]
  split
  · rfl
  · rw [Vector.toList_setIfInBounds, List.take_set_of_le (Nat.le_refl _)]

/-- After the pop the path is that of the parent and the popped entry's bit. -/
theorem pathBits_popEntry {e : StackEntry P} (s : State P) (h0 : e.d ≠ 0) (hmax : e.d.toNat ≤ P.MAX_CODE_LEN) :
    pathBits (popEntry e s) = s.PATH.toList.take (e.d.toNat - 1) ++ [e.b] := by
  have hpos := toNat_pos_of_ne_zero h0
  have hlt : e.d.toNat - 1 < (s.PATH.toList.set (e.d.toNat - 1) e.b).length := by
    rw [List.length_set, Vector.length_toList]
    omega
  rw [pathBits, popEntry_LEN, popEntry_PATH, if_neg h0, Vector.toList_setIfInBounds]
  obtain ⟨d, hd⟩ : ∃ d, e.d.toNat = d + 1 := ⟨e.d.toNat - 1, by omega⟩
  simp only [hd, Nat.add_sub_cancel] at hlt ⊢
  rw [List.take_succ_eq_append_getElem hlt, List.getElem_set_self, List.take_set_of_le (Nat.le_refl _)]

/-- The path after the pop depends on the path of the parent only. -/
theorem pathBits_popEntry_congr {e : StackEntry P} {s u : State P} (hmax : e.d.toNat ≤ P.MAX_CODE_LEN)
    (h : u.PATH.toList.take (e.d.toNat - 1) = s.PATH.toList.take (e.d.toNat - 1)) :
    pathBits (popEntry e u) = pathBits (popEntry e s) := by
  by_cases h0 : e.d = 0
  · simp [pathBits, h0]
  · rw [pathBits_popEntry u h0 hmax, pathBits_popEntry s h0 hmax, h]

/-! What is on the stack, and what a visit leaves. -/

/-- The entry `e` at position `k` of the stack stands for the stored tree `t`, which hangs at the path `p`: popping the
entry leaves `p` in PATH. The tree ends within the longest bit-string (R170), and below the entry there is at most one
for each link of its path. -/
structure Pending (t : CodeTree P) (p : List Bool) (k : Nat) (e : StackEntry P) (s : State P) : Prop where
  entry : stackAt s k = .ok e
  tree : treeAt s.NODE t e.n
  depth : e.d.toNat = p.length
  path : pathBits (popEntry e s) = p
  height : k ≤ p.length
  fits : p.length + depthOf t ≤ P.MAX_CODE_LEN

/-- `u` is `s` but for SERIALIZE's registers and outputs (R40, R43). -/
abbrev WalkFrame (s u : State P) : Prop :=
  u = { s with
    STACK := u.STACK, SP := u.SP, PATH := u.PATH, LEN := u.LEN, OUT_TEXT := u.OUT_TEXT, OUT_PAIRS := u.OUT_PAIRS }

/-- The tree `t` at the path `p`, on the stack of `s` at position `k`, has been visited: its entry is gone, those below
it and the path of its parent are as they were, and its records have been written (R166). -/
structure Visited (t : CodeTree P) (p : List Bool) (k : Nat) (s u : State P) : Prop where
  height : u.SP.toNat = k
  below : ∀ j < k, stackAt u j = stackAt s j
  path : u.PATH.toList.take (p.length - 1) = s.PATH.toList.take (p.length - 1)
  pairs : u.OUT_PAIRS = s.OUT_PAIRS ++ walkTree t p
  text : u.OUT_TEXT = s.OUT_TEXT ++ textOf (walkTree t p)
  frame : WalkFrame s u

theorem WalkFrame.trans {s u v : State P} (h : WalkFrame s u) (h' : WalkFrame u v) : WalkFrame s v := by
  rw [h', h]

theorem WalkFrame.store {s u : State P} (h : WalkFrame s u) : u.NODE = s.NODE := by rw [h]

theorem WalkFrame.phase {s u : State P} (h : WalkFrame s u) : u.PHASE = s.PHASE := by rw [h]

theorem WalkFrame.script {s u : State P} (h : WalkFrame s u) : u.script = s.script := by rw [h]

theorem visitInner_walkFrame (e : StackEntry P) (r : NodeRec P) (s : State P) : WalkFrame s (visitInner e r s) := by
  rw [WalkFrame, visitInner_frame]

section visit
variable {s u v : State P} {t a b : CodeTree P} {x : Sym P} {p q : List Bool} {j k : Nat} {e : StackEntry P}
  {r : NodeRec P}

theorem Pending.depth_le (h : Pending t p k e s) : e.d.toNat ≤ P.MAX_CODE_LEN := by
  have := h.depth
  have := h.fits
  omega

/-- A step at a leaf visits it (R162, R163). -/
theorem Pending.exists_walk_leaf (h : Pending (.leaf x) p k e s) (hsp : s.SP.toNat = k + 1) :
    ∃ u, serializeWalk s = .ok u ∧ Visited (.leaf x) p k s u := by
  have hne : s.SP ≠ 0 := fun h0 => by simp [h0] at hsp
  obtain ⟨r, hr, hl, rfl⟩ := h.tree
  have hwalk := serializeWalk_leaf hne (by rw [hsp]; exact h.entry) hr hl
  rw [h.path] at hwalk
  refine ⟨_, hwalk, ?_, fun j _ => ?_, ?_, ?_, ?_, ?_⟩
  · rw [emitRecord_SP, popEntry_SP, sub_one_toNat hne, hsp, Nat.add_sub_cancel]
  · simp only [stackAt, emitRecord_STACK, popEntry_STACK]
  · rw [← h.depth]
    exact take_PATH_popEntry e s
  · rw [emitRecord_OUT_PAIRS, popEntry_OUT_PAIRS, walkTree]
  · simp [walkTree, textOf]
  · rw [WalkFrame, popEntry_frame]
    rfl

/-- A step at a node with children pops it and leaves its path (R162). -/
theorem Pending.take_PATH_visitInner (h : Pending t p k e s) (r : NodeRec P) :
    (visitInner e r s).PATH.toList.take p.length = p := by
  have hpath := h.path
  rwa [pathBits, popEntry_LEN, h.depth] at hpath

/-- A child of the node of an entry, put on the stack at its depth with its bit, is pending at its path (R164). -/
theorem Pending.child (hP : P.ok) (h : Pending t p k e s) {n : Idx P} {y : Bool}
    (hentry : stackAt (visitInner e r s) j = .ok { n := n, d := e.d + 1, b := y }) (htree : treeAt s.NODE a n)
    (hj : j ≤ p.length + 1) (hdepth : depthOf a < depthOf t) :
    Pending a (p ++ [y]) j { n := n, d := e.d + 1, b := y } (visitInner e r s) := by
  have hfits := h.fits
  have hlt : e.d.toNat < P.MAX_CODE_LEN := by
    rw [h.depth]
    omega
  have hd : (e.d + 1).toNat = p.length + 1 := by rw [depth_add_one_toNat hP hlt, h.depth]
  have h0 : e.d + 1 ≠ 0 := fun hz => by
    rw [hz] at hd
    simp at hd
  refine ⟨hentry, ?_, hd.trans (by simp), ?_, by simpa using hj, ?_⟩
  · rwa [(visitInner_walkFrame e r s).store]
  · have hmax : (e.d + 1).toNat ≤ P.MAX_CODE_LEN := by omega
    rw [pathBits_popEntry _ h0 hmax, hd, Nat.add_sub_cancel, h.take_PATH_visitInner]
  · rw [List.length_append, List.length_singleton]
    omega

/-- A step at a node with children leaves the left one on top of the stack and the right one below it (R162, R164). -/
theorem Pending.exists_walk_inner (hP : P.ok) (h : Pending (.node a b) p k e s) (hsp : s.SP.toNat = k + 1) :
    ∃ r l r', serializeWalk s = .ok (visitInner e r s) ∧ (visitInner e r s).SP.toNat = k + 1 + 1 ∧
      Pending a (p ++ [false]) (k + 1) l (visitInner e r s) ∧ Pending b (p ++ [true]) k r' (visitInner e r s) := by
  have hne : s.SP ≠ 0 := fun h0 => by simp [h0] at hsp
  obtain ⟨r, hr, hl, ha, hb⟩ := h.tree
  have hheight := h.height
  have hfits := h.fits
  simp only [depthOf] at hfits
  have hcap : s.SP.toNat < P.STACK_CAP := by
    obtain ⟨-, -, -, -, -, -, -, hmax, -, hstack⟩ := hP
    omega
  have hwalk := serializeWalk_inner hne (by rw [hsp]; exact h.entry) hr hl hcap (by rw [h.depth]; omega)
  have hright := stackAt_visitInner_right hne e r
  have hleft := stackAt_visitInner_left e r s
  rw [hsp] at hright hleft
  exact ⟨r, _, _, hwalk, by rw [visitInner_SP_toNat hP hne hcap, hsp],
    h.child hP hleft ha (by omega) (by simp only [depthOf]; omega),
    h.child hP hright hb (by omega) (by simp only [depthOf]; omega)⟩

/-- A visit leaves what is pending lower on the stack, at a path of no more bits, pending. -/
theorem Visited.pending (hv : Visited a q j s u) (h : Pending t p k e s) (hk : k < j) (hlen : p.length = q.length) :
    Pending t p k e u where
  entry := (hv.below k hk).trans h.entry
  tree := hv.frame.store ▸ h.tree
  depth := h.depth
  path := by
    have hpath := hv.path
    rw [← hlen, ← h.depth] at hpath
    rw [pathBits_popEntry_congr h.depth_le hpath, h.path]
  height := h.height
  fits := h.fits

/-- A node's step, the visit of its left child and then that of its right child visit the node (R166). -/
theorem Visited.node (h : Pending (.node a b) p k e s) (hsp : s.SP.toNat = k + 1)
    (ha : Visited a (p ++ [false]) (k + 1) (visitInner e r s) u) (hb : Visited b (p ++ [true]) k u v) :
    Visited (.node a b) p k s v := by
  have hframe := visitInner_walkFrame e r s
  refine ⟨hb.height, fun j hj => ?_, ?_, ?_, ?_, hframe.trans (ha.frame.trans hb.frame)⟩
  · rw [hb.below j hj, ha.below j (by omega), stackAt_visitInner_of_ne e r (by omega) (by omega)]
  · have hpath : v.PATH.toList.take p.length = (visitInner e r s).PATH.toList.take p.length := by
      simpa using hb.path.trans (by simpa using ha.path)
    have hup := congrArg (List.take (p.length - 1)) hpath
    simp only [List.take_take, Nat.min_eq_left (Nat.sub_le _ _)] at hup
    rw [hup, ← h.depth]
    exact take_PATH_popEntry e s
  · have hout : (visitInner e r s).OUT_PAIRS = s.OUT_PAIRS := by rw [visitInner_frame]
    rw [hb.pairs, ha.pairs, hout, List.append_assoc, walkTree]
  · have hout : (visitInner e r s).OUT_TEXT = s.OUT_TEXT := by rw [visitInner_frame]
    rw [hb.text, ha.text, hout, List.append_assoc, walkTree, textOf, textOf, textOf, List.flatMap_append]

end visit

/-! The walk as a run. -/

/-- The walk visits the tree on top of the stack in one step for each node (R162, R167). -/
theorem Pending.run {t : CodeTree} {p : List Bool} {k : Nat} {e : StackEntry} {s : State} (h : Pending t p k e s)
    (hsp : s.SP.toNat = k + 1) (hp : s.PHASE = .sWalk) (hscript : s.script = []) :
    ∃ u, RunsTo (sizeOfTree t) s u ∧ Visited t p k s u := by
  induction t generalizing p k e s with
  | leaf x =>
    obtain ⟨u, hwalk, hu⟩ := h.exists_walk_leaf hsp
    exact ⟨u, runsTo_succ.mpr ⟨u, step_sWalk (.inl ⟨hscript, rfl⟩) hp hwalk, rfl⟩, hu⟩
  | node a b iha ihb =>
    obtain ⟨r, l, r', hwalk, htop, hleft, hright⟩ := h.exists_walk_inner hw_ok hsp
    have hframe := visitInner_walkFrame e r s
    obtain ⟨u, hruna, ha⟩ := iha hleft htop (hframe.phase.trans hp) (hframe.script.trans hscript)
    have hframe' := hframe.trans ha.frame
    obtain ⟨v, hrunb, hb⟩ := ihb (ha.pending hright (Nat.lt_succ_self k) (by simp)) ha.height
      (hframe'.phase.trans hp) (hframe'.script.trans hscript)
    exact ⟨v, runsTo_succ.mpr ⟨_, step_sWalk (.inl ⟨hscript, rfl⟩) hp hwalk, runsTo_add hruna hrunb⟩,
      .node h hsp ha hb⟩

/-- The root's entry stands for the whole tree, at the empty path (R161). -/
theorem pending_serializeStart {s : State P} {t : CodeTree P} (h : treeAt s.NODE t s.ROOT)
    (hdepth : depthOf t ≤ P.MAX_CODE_LEN) :
    Pending t [] 0 { n := s.ROOT, d := 0, b := false } (serializeStart s) where
  entry := by
    obtain ⟨r, hr⟩ := exists_nodeRead_of_treeAt h
    exact stackAt_serializeStart_zero (nodeRead_ne_nil hr)
  tree := by rwa [serializeStart_frame]
  depth := by simp
  path := by simp [pathBits]
  height := Nat.zero_le _
  fits := by simpa using hdepth

/-- SERIALIZE left to run empties its stack after one step for each node, with the records of the tree written, those of
the empty tree being none (R166, R167). -/
theorem exists_run_serializeStart {s : State} {a : AnyTree} (hscript : s.script = []) (htree : treeOf s.NODE a s.ROOT)
    (hdepth : ∀ t, a = some t → depthOf t ≤ hw.MAX_CODE_LEN) :
    ∃ u, RunsTo ((a.map sizeOfTree).getD 0) (serializeStart s) u ∧ u.SP = 0 ∧
      u.OUT_PAIRS = s.OUT_PAIRS ++ serTree a ∧ u.OUT_TEXT = s.OUT_TEXT ++ textOf (serTree a) ∧
      WalkFrame (serializeStart s) u := by
  have hstart := serializeStart_frame s
  have hpairs : (serializeStart s).OUT_PAIRS = s.OUT_PAIRS := by rw [hstart]
  have htext : (serializeStart s).OUT_TEXT = s.OUT_TEXT := by rw [hstart]
  cases a with
  | none =>
    have hroot : s.ROOT = NIL := htree
    have hsp : (serializeStart s).SP = 0 := by rw [serializeStart_SP, if_pos hroot]
    exact ⟨_, rfl, hsp, by simp [hpairs, serTree], by simp [htext, serTree, textOf], rfl⟩
  | some t =>
    obtain ⟨r, hr⟩ := exists_nodeRead_of_treeAt htree
    have hsp : (serializeStart s).SP.toNat = 0 + 1 := by
      rw [serializeStart_SP, if_neg (nodeRead_ne_nil hr)]
      rfl
    obtain ⟨u, hrun, hu⟩ := (pending_serializeStart htree (hdepth t rfl)).run hsp (by rw [hstart])
      (by rw [hstart, hscript])
    exact ⟨u, hrun, BitVec.eq_of_toNat_eq hu.height, by rw [hu.pairs, hpairs, serTree],
      by rw [hu.text, htext, serTree], hu.frame⟩

/-- Settles O41: the walk from the start visits the tree, and one step more finds the stack empty. -/
theorem serializeComputesSer : Obligations.SerializeComputesSer := by
  unfold Obligations.SerializeComputesSer
  intro s a hp hscript htv htree hdepth
  obtain ⟨u, hrun, hsp, hpairs, htext, hframe⟩ := exists_run_serializeStart hscript htree hdepth
  have hstart := serializeStart_frame s
  have hturn : EngineTurn u u := .inl ⟨by rw [hframe.script, hstart, hscript], rfl⟩
  have hend := walkEndsOnEmptyStack u u hturn (by rw [hframe.phase, hstart]) hsp
  refine ⟨_, _, exec_serialize hp htv, runsTo_add hrun (runsTo_succ.mpr ⟨_, hend, rfl⟩), rfl, hpairs, htext, ?_⟩
  rw [hframe, hstart, hp]

end Sys2Proof.Machine
end

section
/-! PROOFS. DECODE's steps (R181 to R187, R191): what its start, a decoder bit and its end do, that a bit finds the
records it reads, and what a bit leaves unchanged. -/

namespace Sys2Proof.Machine

variable {P : Params}

/-! The start (R181). -/

/-- In IDLE with a tree DECODE is accepted and starts (R85, R181). -/
theorem exec_decode {s : State} (hp : s.PHASE = .idle) (htv : s.TV = true) :
    exec .decode s = .next (decodeStart (bindBits s)) :=
  (exec_command_idle rfl hp).trans (congrArg _ (if_pos htv))

/-- Settles O15: DECODE is accepted in IDLE, and its start is the state the statement writes out. -/
theorem decodeStarts : Obligations.DecodeStarts := by
  unfold Obligations.DecodeStarts
  intro s hp htv
  exact exec_decode hp htv

/-! A bit (R182 to R186). -/

theorem exec_bitInstr {p : Instr × Bool} (hp : p ∈ bitInstrs) (s : State) : exec p.1 s = onBit p.2 s := by
  simp only [bitInstrs, List.mem_cons, List.not_mem_nil, or_false] at hp
  obtain rfl | rfl := hp <;> rfl

theorem decodeBit_mem_bitInstrs (b : Bool) : (decodeBit b, b) ∈ bitInstrs := by
  cases b <;> decide

/-- The state after the move to the node `n` with the record `r`: a leaf emits its symbol and sends the cursor back to
the root, another node becomes the cursor (R184). -/
def visitChild (n : Idx P) (r : NodeRec P) (s : State P) : State P :=
  if isLeaf r then { sinkPut r.SYM s with CUR := s.ROOT } else { s with CUR := n }

/-- The move reads the cursor and its child on the bit's side (R184). -/
theorem decodeMove_eq_ok {b : Bool} {s t : State P} :
    decodeMove b s = .ok t ↔ ∃ cur, nodeRead s.NODE s.CUR = .ok cur ∧ ∃ r, nodeRead s.NODE (childOf b cur) = .ok r ∧
      visitChild (childOf b cur) r s = t := by
  simp only [decodeMove, op_bind_eq_ok, nodeAt, visitChild, Except.ok.injEq]

/-- A bit that has been read emits the root's symbol on a single-leaf tree and moves on every other (R182). -/
theorem decodeRead_eq_ok {b : Bool} {s t : State P} :
    decodeRead b s = .ok t ↔ ∃ root, nodeRead s.NODE s.ROOT = .ok root ∧
      ((isLeaf root = true ∧ sinkPut root.SYM s = t) ∨ (isLeaf root = false ∧ decodeMove b s = .ok t)) := by
  simp only [decodeRead, op_bind_eq_ok, nodeAt]
  refine exists_congr fun root => and_congr_right fun _ => ?_
  cases isLeaf root <;> simp

section bit
variable {s : State P} {b x : Bool} {bs : List Bool} {root cur r : NodeRec P}

/-- DECODE.empty (R186). -/
theorem onBit_empty (hp : s.PHASE = .dRun) (hin : s.IN_BITS = some (x :: bs)) (hroot : s.ROOT = NIL) :
    onBit b s = .next (raise .emptyTree s) :=
  onBit_eq_next.mpr ⟨hp, x, bs, hin, .inl ⟨hroot, rfl⟩⟩

/-- DECODE.single (R185). -/
theorem onBit_single (hp : s.PHASE = .dRun) (hin : s.IN_BITS = some (x :: bs))
    (hroot : nodeRead s.NODE s.ROOT = .ok root) (hl : isLeaf root = true) :
    onBit b s = .next (sinkPut root.SYM { s with IN_BITS := some bs }) :=
  onBit_eq_next.mpr ⟨hp, x, bs, hin, .inr ⟨nodeRead_ne_nil hroot, decodeRead_eq_ok.mpr ⟨root, hroot, .inl ⟨hl, rfl⟩⟩⟩⟩

/-- DECODE.bit (R184). -/
theorem onBit_inner (hp : s.PHASE = .dRun) (hin : s.IN_BITS = some (x :: bs))
    (hroot : nodeRead s.NODE s.ROOT = .ok root) (hinner : isLeaf root = false) (hcur : nodeRead s.NODE s.CUR = .ok cur)
    (hr : nodeRead s.NODE (childOf b cur) = .ok r) :
    onBit b s = .next (visitChild (childOf b cur) r { s with IN_BITS := some bs }) :=
  onBit_eq_next.mpr ⟨hp, x, bs, hin, .inr ⟨nodeRead_ne_nil hroot, decodeRead_eq_ok.mpr ⟨root, hroot, .inr ⟨hinner,
    decodeMove_eq_ok.mpr ⟨cur, hcur, r, hr, rfl⟩⟩⟩⟩⟩

end bit

/-- Settles O44: the bit is DECODE.empty. -/
theorem bitOnEmptyTree : Obligations.BitOnEmptyTree := by
  unfold Obligations.BitOnEmptyTree
  intro p hmem s b bs hp hin hroot
  rw [exec_bitInstr hmem]
  exact onBit_empty hp hin hroot

/-- Settles O43: the bit is DECODE.single. -/
theorem bitOnSingleLeaf : Obligations.BitOnSingleLeaf := by
  unfold Obligations.BitOnSingleLeaf
  intro p hmem s b bs root hp hin hroot hL hR
  rw [exec_bitInstr hmem]
  exact onBit_single hp hin hroot (isLeaf_iff.mpr ⟨hL, hR⟩)

/-- Settles O42: the bit is DECODE.bit, and the leaf check decides between the statement's two states. -/
theorem bitFollowsTree : Obligations.BitFollowsTree := by
  unfold Obligations.BitFollowsTree
  intro p hmem s b bs root cur r hp hin hroot hinner hcur hr
  have hbit := onBit_inner (b := p.2) hp hin hroot (Bool.eq_false_iff.mpr fun h => hinner (isLeaf_iff.mp h)) hcur hr
  rw [exec_bitInstr hmem, hbit]
  exact ⟨fun hleaf => congrArg _ (if_pos (isLeaf_iff.mpr hleaf)),
    fun hnode => congrArg _ (if_neg fun h => hnode (isLeaf_iff.mp h))⟩

/-! The frame (R191). -/

/-- `t` is `s` but for the cursor, the ports of DECODE, the cause and the phase. -/
abbrev DecodeFrame (s t : State P) : Prop :=
  t = { s with CUR := t.CUR, IN_BITS := t.IN_BITS, OUT_SYMS := t.OUT_SYMS, CAUSE := t.CAUSE, PHASE := t.PHASE }

theorem DecodeFrame.trans {s t u : State P} (h : DecodeFrame s t) (h' : DecodeFrame t u) : DecodeFrame s u := by
  rw [h', h]

theorem visitChild_frame (n : Idx P) (r : NodeRec P) (s : State P) : DecodeFrame s (visitChild n r s) := by
  unfold visitChild
  split <;> rfl

/-- Whatever a decoder bit does, it keeps the frame (R191). -/
theorem onBit_frame {s t : State P} {b : Bool} (h : onBit b s = .next t) : DecodeFrame s t := by
  obtain ⟨-, x, bs, -, ⟨-, rfl⟩ | ⟨-, hread⟩⟩ := onBit_eq_next.mp h
  · rfl
  have hinput : DecodeFrame s { s with IN_BITS := some bs } := rfl
  obtain ⟨root, -, ⟨-, rfl⟩ | ⟨-, hmove⟩⟩ := decodeRead_eq_ok.mp hread
  · rfl
  · obtain ⟨cur, -, r, -, rfl⟩ := decodeMove_eq_ok.mp hmove
    exact hinput.trans (visitChild_frame _ r _)

/-- Settles O46: both instructions are decoder bits, and each result of a bit keeps the frame. -/
theorem decoderOnlyReadsTree : Obligations.DecoderOnlyReadsTree := by
  unfold Obligations.DecoderOnlyReadsTree
  intro p hmem s t h
  exact onBit_frame (exec_bitInstr hmem s ▸ h)

/-! As steps (R182, R183). -/

theorem step_decoderBit {s s1 : State} (hturn : EngineTurn s s1) (hp : s.PHASE = .dRun) {b : Bool} {bs : List Bool}
    (hin : s.IN_BITS = some (b :: bs)) : step s = onBit b s1 := by
  rw [step_engineTurn hturn (i := decodeBit b) (by simp only [engineWork, hp, hin]),
    exec_bitInstr (decodeBit_mem_bitInstrs b)]

theorem step_decodeEnd {s s1 : State} (hturn : EngineTurn s s1) (hp : s.PHASE = .dRun) (hin : s.IN_BITS = some []) :
    step s = .next (decodeEnd s1) :=
  step_engineTurn_internal hturn (k := .decodeEnd) (by simp only [engineWork, hp, hin])

/-- Settles O45: with no bit left the step is DECODE.end, whose test of the cursor decides. -/
theorem bitsExhausted : Obligations.BitsExhausted := by
  unfold Obligations.BitsExhausted
  intro s s1 hturn hp hin
  rw [step_decodeEnd hturn hp hin]
  obtain ⟨sc, rfl⟩ : ∃ sc, s1 = { s with script := sc } := ⟨_, engineTurn_eq hturn⟩
  exact ⟨fun hcur => congrArg _ (if_pos hcur), fun hcur => congrArg _ (if_neg hcur)⟩

/-! A bit always answers (R187). -/

/-- A finished record with children has both (R33). -/
theorem childOf_ne_nil_of_finished {r : NodeRec P} (h : finished r) (hl : isLeaf r = false) (b : Bool) :
    childOf b r ≠ NIL := by
  obtain ⟨hL, hR⟩ := finished_inner_kids h hl
  cases b
  · exact kids_ne_nil hL
  · exact kids_ne_nil hR

/-- With the invariants a decoder bit finds the root, the cursor and the cursor's child where it reads them (R184, R185,
R187). -/
theorem exists_onBit (hP : P.ok) {s : State P} (h : ShapeInv s) (hp : s.PHASE = .dRun) {x : Bool} {bs : List Bool}
    (hin : s.IN_BITS = some (x :: bs)) (b : Bool) : ∃ t, onBit b s = .next t := by
  obtain ⟨hstore, ⟨-, -, hvalid, -⟩, -, hfinished, -, hcursor⟩ := h
  have hfacts := storeInv_iff.mp hstore
  by_cases hnil : s.ROOT = NIL
  · exact ⟨_, onBit_empty hp hin hnil⟩
  obtain ⟨root, hroot⟩ := hfacts.readable hP (hfacts.root.resolve_left hnil)
  cases hl : isLeaf root with
  | true => exact ⟨_, onBit_single hp hin hroot hl⟩
  | false =>
    obtain ⟨-, hread⟩ := hcursor hp
    obtain ⟨-, hwalk⟩ := hread root hroot
    obtain ⟨⟨cur, hcur, hinner⟩, -⟩ := hwalk hl
    have hmem : (s.CUR.toNat, cur) ∈ s.NODE := cellGet_mem (nodeRead_eq_ok.mp hcur).2
    have hchild := childOf_ne_nil_of_finished (hfinished (.inr ⟨hvalid (.inr hp), hnil⟩) _ hmem) hinner b
    obtain ⟨r, hr⟩ := hfacts.readable hP (((hfacts.store.recordOk_of_read hcur).childOf b).resolve_left hchild)
    exact ⟨_, onBit_inner hp hin hroot hl hcur hr⟩

/-- Settles O59: without a bit the step is DECODE.end, and a bit answers. -/
theorem decodeNeverStops : Obligations.DecodeNeverStops := by
  unfold Obligations.DecodeNeverStops
  intro s s1 h hturn hp hbound
  rcases hin : s.IN_BITS with _ | _ | ⟨b, bs⟩
  · exact absurd hin hbound
  · exact ⟨_, step_decodeEnd hturn hp hin⟩
  · rw [step_decoderBit hturn hp hin]
    obtain ⟨sc, rfl⟩ : ∃ sc, s1 = { s with script := sc } := ⟨_, engineTurn_eq hturn⟩
    exact exists_onBit (s := { s with script := sc }) hw_ok h hp hin b

end Sys2Proof.Machine
end

section
/-! PROOFS. DECODE computes `decode` (R188, R189, R190): the steps from a state in D_RUN follow the recursion of `go` on
the bits, the cursor standing at the tree `go` is in. -/

namespace Sys2Proof.Machine

variable {P : Params}

/-! Stored trees. -/

/-- A node stands for one tree at most (R13). -/
theorem treeAt_unique {m : Memory P} {t t' : CodeTree P} {i : Idx P} (h : treeAt m t i) (h' : treeAt m t' i) :
    t = t' := by
  induction t generalizing t' i with
  | leaf x =>
    obtain ⟨r, hr, hl, rfl⟩ := h
    cases t' with
    | leaf y =>
      obtain ⟨r', hr', -, rfl⟩ := h'
      obtain rfl := Except.ok.inj (hr.symm.trans hr')
      rfl
    | node c d =>
      obtain ⟨r', hr', hl', -⟩ := h'
      obtain rfl := Except.ok.inj (hr.symm.trans hr')
      simp [hl] at hl'
  | node a b iha ihb =>
    obtain ⟨r, hr, hl, ha, hb⟩ := h
    obtain ⟨c, d, rfl, hc, hd⟩ := exists_subtrees_of_treeAt h' hr hl
    rw [iha ha hc, ihb hb hd]

/-- The child a bit leads to stands for the tree on the bit's side (R184). -/
theorem treeAt_childOf {m : Memory P} {a b : CodeTree P} {i : Idx P} (h : treeAt m (.node a b) i) {r : NodeRec P}
    (hr : nodeRead m i = .ok r) (x : Bool) : treeAt m (if x then b else a) (childOf x r) := by
  obtain ⟨r', hr', -, ha, hb⟩ := h
  obtain rfl := Except.ok.inj (hr.symm.trans hr')
  cases x
  · exact ha
  · exact hb

theorem sizeOfTree_child_lt (a b : CodeTree P) (x : Bool) :
    sizeOfTree (if x then b else a) < sizeOfTree (.node a b) := by
  cases x <;> simp [sizeOfTree]

/-! The recursion of `go` (R188). -/

section go
variable {whole a b c d : CodeTree P} {x : Bool} {y : Sym P}

theorem goTree_of_leaf (h : (if x then b else a) = .leaf y) (bs : List Bool) (atRoot : Bool) :
    goTree whole (.node a b) (x :: bs) atRoot =
      (y :: (goTree whole whole bs true).1, (goTree whole whole bs true).2) := by
  simp only [goTree, h]

theorem goTree_of_node (h : (if x then b else a) = .node c d) (bs : List Bool) (atRoot : Bool) :
    goTree whole (.node a b) (x :: bs) atRoot = goTree whole (.node c d) bs false := by
  simp only [goTree, h]

end go

/-! What a DECODE that has ended leaves. -/

/-- From `s` to `t` a DECODE has emitted the symbols of `out` and ended with its outcome (R189). -/
structure Decoded (out : List (Sym P) × Cause) (s t : State P) : Prop where
  emitted : t.OUT_SYMS = s.OUT_SYMS ++ out.1
  completes : out.2 = .noFault → t.PHASE = .idle ∧ t.CAUSE = s.CAUSE
  faults : out.2 ≠ .noFault → t.PHASE = .fault ∧ t.CAUSE = out.2
  frame : DecodeFrame s t

/-- A step that writes no cause and emits some symbols comes before the rest of the decoding. -/
theorem Decoded.prepend {s s1 t : State P} {out : List (Sym P) × Cause} (h : Decoded out s1 t) {xs : List (Sym P)}
    (hout : s1.OUT_SYMS = s.OUT_SYMS ++ xs) (hcause : s1.CAUSE = s.CAUSE) (hframe : DecodeFrame s s1) :
    Decoded (xs ++ out.1, out.2) s t where
  emitted := by rw [h.emitted, hout, List.append_assoc]
  completes hok := hcause ▸ h.completes hok
  faults := h.faults
  frame := hframe.trans h.frame

/-- A fault of DECODE (R183, R186). -/
theorem decoded_raise (s : State P) {f : Cause} (hf : f ≠ .noFault) : Decoded ([], f) s (raise f s) :=
  ⟨(List.append_nil _).symm, fun h => absurd h hf, fun _ => ⟨rfl, rfl⟩, rfl⟩

/-- DECODE.end (R183). -/
theorem decoded_decodeEnd (s : State P) :
    Decoded ([], if s.CUR = s.ROOT then .noFault else .streamTruncated) s (decodeEnd s) := by
  unfold decodeEnd
  split
  · exact ⟨(List.append_nil _).symm, fun _ => ⟨rfl, rfl⟩, fun h => absurd rfl h, rfl⟩
  · exact decoded_raise s (by decide)

/-! The states of a DECODE. -/

/-- A DECODE with the bits `bs` to read on the stored tree `whole`. -/
structure Decoding (whole : CodeTree P) (bs : List Bool) (s : State P) : Prop where
  phase : s.PHASE = .dRun
  script : s.script = []
  input : s.IN_BITS = some bs
  root : treeAt s.NODE whole s.ROOT

section steps
variable {whole here a b c d : CodeTree P} {x : Bool} {bs : List Bool} {s : State P}

/-- A bit that has been read leaves the rest to read on the same tree. -/
theorem Decoding.read (h : Decoding whole (x :: bs) s) (out : List (Sym P)) (cur : Idx P) :
    Decoding whole bs { s with IN_BITS := some bs, OUT_SYMS := out, CUR := cur } where
  phase := h.phase
  script := h.script
  input := rfl
  root := h.root

/-- On a single-leaf tree a bit emits the sole symbol (R185). -/
theorem Decoding.onBit_leaf {y : Sym P} (h : Decoding (.leaf y) (x :: bs) s) :
    onBit x s = .next { s with IN_BITS := some bs, OUT_SYMS := s.OUT_SYMS ++ [y] } := by
  obtain ⟨root, hroot, hl, rfl⟩ := h.root
  exact onBit_single h.phase h.input hroot hl

/-- On a tree with children a bit moves to the child of the cursor on its side (R184). -/
theorem Decoding.exists_onBit_child (h : Decoding (.node a b) (x :: bs) s) (hcur : treeAt s.NODE (.node c d) s.CUR) :
    ∃ n r, nodeRead s.NODE n = .ok r ∧ treeAt s.NODE (if x then d else c) n ∧
      onBit x s = .next (visitChild n r { s with IN_BITS := some bs }) := by
  obtain ⟨root, hroot, hinner, -⟩ := h.root
  obtain ⟨cur, hread⟩ := exists_nodeRead_of_treeAt hcur
  have hchild := treeAt_childOf hcur hread x
  obtain ⟨r, hr⟩ := exists_nodeRead_of_treeAt hchild
  exact ⟨_, r, hr, hchild, onBit_inner h.phase h.input hroot hinner hread hr⟩

/-- A bit whose side is a leaf emits its symbol and sends the cursor back to the root (R184). -/
theorem Decoding.onBit_to_leaf {y : Sym P} (h : Decoding (.node a b) (x :: bs) s)
    (hcur : treeAt s.NODE (.node c d) s.CUR) (hside : (if x then d else c) = .leaf y) :
    onBit x s = .next { s with IN_BITS := some bs, OUT_SYMS := s.OUT_SYMS ++ [y], CUR := s.ROOT } := by
  obtain ⟨n, r, hr, hchild, hbit⟩ := h.exists_onBit_child hcur
  rw [hside] at hchild
  obtain ⟨r', hr', hl, rfl⟩ := hchild
  obtain rfl := Except.ok.inj (hr.symm.trans hr')
  exact hbit.trans (congrArg _ (if_pos hl))

/-- A bit whose side is a node with children makes it the cursor (R184). -/
theorem Decoding.exists_onBit_to_node {c' d' : CodeTree P} (h : Decoding (.node a b) (x :: bs) s)
    (hcur : treeAt s.NODE (.node c d) s.CUR) (hside : (if x then d else c) = .node c' d') :
    ∃ n, treeAt s.NODE (.node c' d') n ∧ onBit x s = .next { s with IN_BITS := some bs, CUR := n } := by
  obtain ⟨n, r, hr, hchild, hbit⟩ := h.exists_onBit_child hcur
  rw [hside] at hchild
  have ⟨r', hr', hl, _⟩ := hchild
  obtain rfl := Except.ok.inj (hr.symm.trans hr')
  exact ⟨n, hchild, hbit.trans (congrArg _ (if_neg (Bool.eq_false_iff.mp hl)))⟩

/-- A node that stands for a tree smaller than the root's is not the root. -/
theorem Decoding.ne_root (h : Decoding whole bs s) {n : Idx P} (hn : treeAt s.NODE here n)
    (hsize : sizeOfTree here < sizeOfTree whole) : n ≠ s.ROOT := by
  rintro rfl
  rw [treeAt_unique hn h.root] at hsize
  exact Nat.lt_irrefl _ hsize

end steps

/-! Runs. -/

section runs
variable {whole a b c d : CodeTree} {bs : List Bool} {s : State}

theorem Decoding.step_bit {x : Bool} (h : Decoding whole (x :: bs) s) : step s = onBit x s :=
  step_decoderBit (.inl ⟨h.script, rfl⟩) h.phase h.input

theorem Decoding.step_end (h : Decoding whole [] s) : step s = .next (decodeEnd s) :=
  step_decodeEnd (.inl ⟨h.script, rfl⟩) h.phase h.input

/-- On a single-leaf tree DECODE emits its symbol once for each bit (R185, R188). -/
theorem Decoding.run_leaf {y : Sym} (h : Decoding (.leaf y) bs s) (hcur : s.CUR = s.ROOT) :
    ∃ t, RunsTo (bs.length + 1) s t ∧ Decoded (List.replicate bs.length y, .noFault) s t := by
  induction bs generalizing s with
  | nil =>
    have hend := decoded_decodeEnd s
    rw [if_pos hcur] at hend
    exact ⟨_, runsTo_succ.mpr ⟨_, h.step_end, rfl⟩, hend⟩
  | cons x bs ih =>
    obtain ⟨t, hrun, ht⟩ := ih (h.read (s.OUT_SYMS ++ [y]) s.CUR) hcur
    exact ⟨t, runsTo_succ.mpr ⟨_, h.step_bit.trans h.onBit_leaf, hrun⟩, ht.prepend rfl rfl rfl⟩

/-- On a tree with children DECODE does what `go` does, from a cursor at any tree with children that is no larger
than the whole (R184, R188). -/
theorem Decoding.run_node (h : Decoding (.node a b) bs s) (hcur : treeAt s.NODE (.node c d) s.CUR)
    (hsize : sizeOfTree (.node c d) ≤ sizeOfTree (.node a b)) :
    ∃ t, RunsTo (bs.length + 1) s t ∧
      Decoded (goTree (.node a b) (.node c d) bs (decide (s.CUR = s.ROOT))) s t := by
  induction bs generalizing c d s with
  | nil =>
    have hend := decoded_decodeEnd s
    exact ⟨_, runsTo_succ.mpr ⟨_, h.step_end, rfl⟩, by simpa only [goTree, decide_eq_true_eq] using hend⟩
  | cons x bs ih =>
    cases hside : (if x then d else c) with
    | leaf y =>
      obtain ⟨t, hrun, ht⟩ := ih (h.read (s.OUT_SYMS ++ [y]) s.ROOT) h.root (Nat.le_refl _)
      rw [decide_eq_true rfl] at ht
      rw [goTree_of_leaf hside]
      exact ⟨t, runsTo_succ.mpr ⟨_, h.step_bit.trans (h.onBit_to_leaf hcur hside), hrun⟩, ht.prepend rfl rfl rfl⟩
    | node c' d' =>
      obtain ⟨n, hchild, hbit⟩ := h.exists_onBit_to_node hcur hside
      have hless := Nat.lt_of_lt_of_le (sizeOfTree_child_lt c d x) hsize
      rw [hside] at hless
      obtain ⟨t, hrun, ht⟩ := ih (h.read s.OUT_SYMS n) hchild (Nat.le_of_lt hless)
      rw [decide_eq_false (h.ne_root hchild hless)] at ht
      rw [goTree_of_node hside]
      exact ⟨t, runsTo_succ.mpr ⟨_, h.step_bit.trans hbit, hrun⟩,
        ht.prepend (List.append_nil s.OUT_SYMS).symm rfl rfl⟩

/-- On the empty tree DECODE ends with its first step, which finds a bit or the end of the bits (R183, R186, R188). -/
theorem exists_run_empty (hp : s.PHASE = .dRun) (hscript : s.script = []) (hin : s.IN_BITS = some bs)
    (hroot : s.ROOT = NIL) (hcur : s.CUR = s.ROOT) : ∃ t, RunsTo 1 s t ∧ Decoded (decodeTree none bs) s t := by
  have hturn : EngineTurn s s := .inl ⟨hscript, rfl⟩
  cases bs with
  | nil =>
    have hend := decoded_decodeEnd s
    rw [if_pos hcur] at hend
    exact ⟨_, runsTo_succ.mpr ⟨_, step_decodeEnd hturn hp hin, rfl⟩, hend⟩
  | cons x bs =>
    have hstep := (step_decoderBit hturn hp hin).trans (onBit_empty hp hin hroot)
    exact ⟨_, runsTo_succ.mpr ⟨_, hstep, rfl⟩, decoded_raise s (by decide)⟩

/-- On any tree, from a cursor at the root, DECODE does what `decode` does (R188, R189). -/
theorem exists_run_decode {a : AnyTree} (hp : s.PHASE = .dRun) (hscript : s.script = []) (hin : s.IN_BITS = some bs)
    (htree : treeOf s.NODE a s.ROOT) (hcur : s.CUR = s.ROOT) :
    ∃ t n, n ≤ bs.length + 1 ∧ RunsTo n s t ∧ Decoded (decodeTree a bs) s t := by
  cases a with
  | none =>
    obtain ⟨t, hrun, ht⟩ := exists_run_empty hp hscript hin htree hcur
    exact ⟨t, 1, Nat.le_add_left 1 _, hrun, ht⟩
  | some whole =>
    have h : Decoding whole bs s := ⟨hp, hscript, hin, htree⟩
    cases whole with
    | leaf y =>
      obtain ⟨t, hrun, ht⟩ := h.run_leaf hcur
      exact ⟨t, _, Nat.le_refl _, hrun, ht⟩
    | node c d =>
      obtain ⟨t, hrun, ht⟩ := h.run_node (hcur ▸ h.root) (Nat.le_refl _)
      rw [decide_eq_true hcur] at ht
      exact ⟨t, _, Nat.le_refl _, hrun, ht⟩

end runs

/-- Settles O47: the start puts the cursor at the root with the offered bits to read, and the run from there does what
`decode` does. -/
theorem decodeComputesDecode : Obligations.DecodeComputesDecode := by
  unfold Obligations.DecodeComputesDecode
  intro s a hp hscript htv htree out
  have hstart : DecodeFrame s (decodeStart (bindBits s)) := rfl
  obtain ⟨t, n, hn, hrun, ht⟩ := exists_run_decode (s := decodeStart (bindBits s)) rfl hscript rfl htree rfl
  exact ⟨_, t, n, exec_decode hp htv, hn, hrun, ht.emitted, ht.completes, ht.faults, hstart.trans ht.frame⟩

end Sys2Proof.Machine
end

section
/-! PROOFS. FAULT is final (R73, R208): there the engine holds and a command is ignored, so reset is the only way out. -/

namespace Sys2Proof.Machine

variable {P : Params}

/-- In FAULT the engine takes no step (R101). -/
theorem engineWork_fault {s : State P} (hp : s.PHASE = .fault) : engineWork s = .internal .hold := by
  simp only [engineWork, hp]

/-- Settles O48: the engine's turn holds, a CMD write is ignored outside IDLE (R85), a STATUS read is the host's own. -/
theorem faultIsFinal : Obligations.FaultIsFinal := by
  unfold Obligations.FaultIsFinal
  intro s hp hn
  obtain ⟨-, hf⟩ | ⟨rest, -, hf⟩ | ⟨w, o, rest, hs, -⟩ | ⟨rest, -, hf⟩ | ⟨rest, hs, -⟩ := fetch_cases s
  · exact ⟨s, step_internal (engineWork_fault hp ▸ hf), rfl⟩
  · exact ⟨_, step_internal (engineWork_fault hp ▸ hf), rfl⟩
  · have hidle : s.PHASE ≠ .idle := by simp [hp]
    exact ⟨_, (step_writeCmd hs).trans (commandIgnoredOutsideIdle _ _ (format_decodeCmd w) hidle), rfl⟩
  · exact ⟨_, step_internal hf, rfl⟩
  · exact absurd (by rw [hs]; rfl) hn

end Sys2Proof.Machine
end

section
/-! PROOFS. Reset from any state (R46, R230), and the block at rest (R231). -/

namespace Sys2Proof.Machine

variable {P : Params}

/-! Reset. -/

/-- What reset leaves has the values of R46's table: it differs from `resetAt` on the host's side only, which no row
reads. -/
theorem blockReset_atReset (s : State P) : AtReset (blockReset s) := resetAt_atReset P

/-- Reset as a step: it is taken off the script, and nothing of the engine runs (R230). -/
theorem step_reset {s : State} {rest : List HostEvent} (h : s.script = .reset :: rest) :
    step s = .next (blockReset { s with script := rest }) := by
  have hfetch : fetch s = (.internal .blockReset, { s with script := rest }) := by simp only [fetch, h]
  exact step_internal hfetch

/-- Settles O6: the step is the reset, which leaves R46's table and keeps the host's side. -/
theorem resetFromAnyState : Obligations.ResetFromAnyState := by
  unfold Obligations.ResetFromAnyState
  intro s rest h
  exact ⟨_, step_reset h, blockReset_atReset _, rfl, rfl, rfl⟩

/-! IDLE. -/

/-- In IDLE the engine takes no step (R101, R231). -/
theorem engineWork_idle {s : State P} (hp : s.PHASE = .idle) : engineWork s = .internal .hold := by
  simp only [engineWork, hp]

/-- Settles O7: the engine's turn in IDLE is a hold. -/
theorem idleDoesNothing : Obligations.IdleDoesNothing := by
  unfold Obligations.IdleDoesNothing
  intro s s1 hturn hp
  exact step_engineTurn_internal hturn (engineWork_idle hp)

end Sys2Proof.Machine
end
